-- ==== Sys2Proof/Word.lean ====
section
/-! DEFINITION. The words the unit handles: a 64-bit virtual address or descriptor, a 48-bit physical or
intermediate physical address, a byte (rule R7 of spec/00_scope.md). -/

namespace Sys2Proof

/-- A translation table descriptor, a virtual address or a 64-bit system register (R7). -/
abbrev Word := BitVec 64

/-- A byte of physical memory, or one MAIR attribute field (R34). -/
abbrev Byte := BitVec 8

/-- A physical address or an intermediate physical address (R7, R61, R62). -/
abbrev PAddr := BitVec 48

end Sys2Proof
end

