-- ==== Sys2Proof/Syntax.lean ====
section
/-! DEFINITION. The words the unit decodes, one constructor of `Instr` for each row of
spec/opcode_table.json (rules R90 and R114 of spec/30_encoding.md), and the context outside the word that
selects a descriptor's row (R91). Single bits are `Bool`, TRUE for '1'. -/

namespace Sys2Proof

/-- The translation granule (R103, R190): `large` 64KB, `mid` 16KB, `small` 4KB. -/
inductive Granule where
  | small
  | mid
  | large
  deriving DecidableEq, Repr, Inhabited

/-- A lookup level, 0 to 3 (R7). -/
abbrev Level := Fin 4

/-- The stage and regime a descriptor is read for, as the `context` column of the opcode table tells the
rows apart: stage 1 of the EL1&0 regimes, stage 1 of the EL2 or EL3 regime (`singlepriv`), stage 2. -/
inductive Stage where
  | s1El10
  | s1El2El3
  | s2
  deriving DecidableEq, Repr, Inhabited

/-- What selects a descriptor's row beside its bits (R91, R114): the lookup level, the stage and regime, and
the granule (which fixes the first level a block is allowed at). -/
structure DescContext where
  level : Level
  stage : Stage
  granule : Granule
  deriving DecidableEq, Repr, Inhabited

/-- The fields of a stage 1 table descriptor of the EL1&0 regimes (R93, R214). -/
structure TableS1El10 where
  /-- [63] NSTable. -/
  ns : Bool
  /-- [62] APTable[1], read-only. -/
  apRo : Bool
  /-- [61] APTable[0], privileged only. -/
  apPriv : Bool
  /-- [60] XNTable. -/
  xn : Bool
  /-- [59] PXNTable. -/
  pxn : Bool
  /-- [47:12] next-level table address bits. -/
  addr : BitVec 36
  deriving DecidableEq, Repr, Inhabited

/-- The fields of a stage 1 table descriptor of the EL2 and EL3 regimes: bits [61] and [59] are not read
(R214). -/
structure TableS1El2El3 where
  /-- [63] NSTable. -/
  ns : Bool
  /-- [62] APTable[1], read-only. -/
  apRo : Bool
  /-- [60] XNTable. -/
  xn : Bool
  /-- [47:12] next-level table address bits. -/
  addr : BitVec 36
  deriving DecidableEq, Repr, Inhabited

/-- The fields of a stage 1 block or page descriptor (R94, R95). -/
structure LeafS1 where
  /-- [54] XN (UXN in the EL1&0 regime). -/
  xn : Bool
  /-- [53] PXN. -/
  pxn : Bool
  /-- [52] contiguous hint. -/
  contiguous : Bool
  /-- [47:12] output address bits. -/
  addr : BitVec 36
  /-- [11] not global. -/
  nG : Bool
  /-- [10] access flag. -/
  af : Bool
  /-- [9:8] shareability. -/
  sh : BitVec 2
  /-- [7:6] AP[2:1]. -/
  ap : BitVec 2
  /-- [5] NS. -/
  ns : Bool
  /-- [4:2] AttrIndx. -/
  attrIndx : BitVec 3
  deriving DecidableEq, Repr, Inhabited

/-- The fields of a stage 2 block or page descriptor (R95, R227). -/
structure LeafS2 where
  /-- [54] XN. -/
  xn : Bool
  /-- [53] read into a local and ignored. -/
  pxn : Bool
  /-- [52] contiguous hint. -/
  contiguous : Bool
  /-- [47:12] output address bits. -/
  addr : BitVec 36
  /-- [11] read into a local and ignored. -/
  nG : Bool
  /-- [10] access flag. -/
  af : Bool
  /-- [9:8] shareability. -/
  sh : BitVec 2
  /-- [7:6] S2AP. -/
  s2ap : BitVec 2
  /-- [5:2] MemAttr. -/
  memAttr : BitVec 4
  deriving DecidableEq, Repr, Inhabited

/-- The words the unit decodes: the rows of spec/opcode_table.json. -/
inductive Instr where
  /-- DESC_INVALID (R92): bit [0] clear. -/
  | descInvalid
  /-- DESC_RESERVED_L3 (R210): bits [1:0] = '01' at level 3. -/
  | descReservedL3
  /-- DESC_BLOCK_NOT_ALLOWED (R217): '01' at a level below `firstblocklevel`. -/
  | descBlockNotAllowed
  /-- DESC_TABLE_S1_EL10 (R93). -/
  | descTableS1El10 (t : TableS1El10)
  /-- DESC_TABLE_S1_EL2_EL3 (R214). -/
  | descTableS1El2El3 (t : TableS1El2El3)
  /-- DESC_TABLE_S2 (R213): `a` is bits [47:12]. -/
  | descTableS2 (a : BitVec 36)
  /-- DESC_BLOCK_S1 (R94). -/
  | descBlockS1 (f : LeafS1)
  /-- DESC_PAGE_S1 (R95). -/
  | descPageS1 (f : LeafS1)
  /-- DESC_BLOCK_S2 (R227). -/
  | descBlockS2 (f : LeafS2)
  /-- DESC_PAGE_S2 (R227). -/
  | descPageS2 (f : LeafS2)
  /-- MAIR_DEVICE_nGnRnE (R248): 0x00. -/
  | mairDeviceNGnRnE
  /-- MAIR_DEVICE_nGnRE (R248): 0x04. -/
  | mairDeviceNGnRE
  /-- MAIR_DEVICE_nGRE (R248): 0x08. -/
  | mairDeviceNGRE
  /-- MAIR_DEVICE_GRE (R248): 0x0C. -/
  | mairDeviceGRE
  /-- MAIR_RESERVED_DEVICE_01 (R247): 0000dd01. -/
  | mairReservedDevice01 (d : BitVec 2)
  /-- MAIR_RESERVED_DEVICE_10 (R247): 0000dd10. -/
  | mairReservedDevice10 (d : BitVec 2)
  /-- MAIR_RESERVED_DEVICE_11 (R247): 0000dd11. -/
  | mairReservedDevice11 (d : BitVec 2)
  /-- MAIR_RESERVED_NORMAL (R247): oooo0000 with oooo not zero. -/
  | mairReservedNormal (o : BitVec 4)
  /-- MAIR_NORMAL (R249): ooooiiii with both nibbles not zero. -/
  | mairNormal (o : BitVec 4) (i : BitVec 4)
  deriving DecidableEq, Repr, Inhabited

end Sys2Proof
end

