-- ==== Sys2Proof/Machine/Bits.lean ====
section
/-! DEFINITION. Bit-field and byte-order helpers (rules R8, R10 of spec/00_scope.md, R68 of
spec/20_memory.md) and the granule constants the decoder shares with the walk (R190 of
spec/43_table_walk.md). -/

namespace Sys2Proof.Machine

/-- `IsZero(v<hi:lo>)` (R10). -/
def isZeroSlice {n : Nat} (v : BitVec n) (hi lo : Nat) : Bool :=
  v.extractLsb' lo (hi + 1 - lo) == 0

/-- `IsOnes(v<hi:lo>)` (R10). -/
def isOnesSlice {n : Nat} (v : BitVec n) (hi lo : Nat) : Bool :=
  v.extractLsb' lo (hi + 1 - lo) == BitVec.allOnes (hi + 1 - lo)

/-- `v<n-1:k>:Zeros(k)`: the low `k` bits replaced by zeros (R203, R213). -/
def clearLow {n : Nat} (v : BitVec n) (k : Nat) : BitVec n :=
  (v >>> k) <<< k

/-- `zext_48(v<k-1:0>)`: the low `k` bits alone (R221). -/
def lowBits (v : Word) (k : Nat) : PAddr :=
  (v.extractLsb' 0 k).setWidth 48

/-- `BigEndianReverse` on 64 bits: byte `i` of the result is byte `7-i` of `v` (R68). -/
def bigEndianReverse (v : Word) : Word :=
  v.extractLsb' 0 8 ++ v.extractLsb' 8 8 ++ v.extractLsb' 16 8 ++ v.extractLsb' 24 8
    ++ v.extractLsb' 32 8 ++ v.extractLsb' 40 8 ++ v.extractLsb' 48 8 ++ v.extractLsb' 56 8

/-- The 64-bit word whose byte at the lowest address is bits [7:0] (R66); `none` unless there are eight. -/
def wordOfBytes : List Byte → Option Word
  | [b0, b1, b2, b3, b4, b5, b6, b7] => some (b7 ++ b6 ++ b5 ++ b4 ++ b3 ++ b2 ++ b1 ++ b0)
  | _ => none

/-- The eight bytes of a word, the byte at the lowest address first (R66). -/
def bytesOfWord (v : Word) : List Byte :=
  [v.extractLsb' 0 8, v.extractLsb' 8 8, v.extractLsb' 16 8, v.extractLsb' 24 8,
   v.extractLsb' 32 8, v.extractLsb' 40 8, v.extractLsb' 48 8, v.extractLsb' 56 8]

/-- `grainsize`, Log2 of the granule (R190). -/
def grainsize : Granule → Nat
  | .small => 12
  | .mid => 14
  | .large => 16

/-- `stride = grainsize - 3` (R190). -/
def stride (g : Granule) : Nat := grainsize g - 3

/-- `firstblocklevel`, the first level where a block descriptor is allowed (R190). -/
def firstblocklevel : Granule → Nat
  | .small => 1
  | .mid => 2
  | .large => 2

end Sys2Proof.Machine
end

