-- ==== Sys2Proof/WellFormed.lean ====
section
/-! DEFINITION. Which `Instr` terms stand for a word of their row: the nibble conditions of the MAIR rows
(rule R247, rule R249 of spec/44_support.md; the `context` column of spec/opcode_table.json). Every other
row's operands take every value of their widths. -/

namespace Sys2Proof

/-- The term stands for a word of its own row. -/
def Instr.wf : Instr → Bool
  | .descInvalid => true
  | .descReservedL3 => true
  | .descBlockNotAllowed => true
  | .descTableS1El10 _ => true
  | .descTableS1El2El3 _ => true
  | .descTableS2 _ => true
  | .descBlockS1 _ => true
  | .descPageS1 _ => true
  | .descBlockS2 _ => true
  | .descPageS2 _ => true
  | .mairDeviceNGnRnE => true
  | .mairDeviceNGnRE => true
  | .mairDeviceNGRE => true
  | .mairDeviceGRE => true
  | .mairReservedDevice01 _ => true
  | .mairReservedDevice10 _ => true
  | .mairReservedDevice11 _ => true
  | .mairReservedNormal o => o != 0
  | .mairNormal o i => o != 0 && i != 0

/-- The row is one of the 8-bit MAIR attribute rows (`format` mair_attr8, R114). -/
def Instr.isMair : Instr → Bool
  | .descInvalid => false
  | .descReservedL3 => false
  | .descBlockNotAllowed => false
  | .descTableS1El10 _ => false
  | .descTableS1El2El3 _ => false
  | .descTableS2 _ => false
  | .descBlockS1 _ => false
  | .descPageS1 _ => false
  | .descBlockS2 _ => false
  | .descPageS2 _ => false
  | .mairDeviceNGnRnE => true
  | .mairDeviceNGnRE => true
  | .mairDeviceNGRE => true
  | .mairDeviceGRE => true
  | .mairReservedDevice01 _ => true
  | .mairReservedDevice10 _ => true
  | .mairReservedDevice11 _ => true
  | .mairReservedNormal _ => true
  | .mairNormal _ _ => true

end Sys2Proof
end

