-- ==== Sys2Proof/Decode.lean ====
section
/-! DEFINITION. Decoding the two kinds of word the unit reads (rules R91 to R102, R109, R114 of
spec/30_encoding.md), total on any bytes and refusing by name, and the encoder from the same tables. -/

namespace Sys2Proof

open Sys2Proof.Machine

/-- Why bytes are no word of the unit. -/
inductive DecodeError where
  /-- A descriptor is exactly eight bytes (R7, R72). -/
  | notEightBytes
  /-- A MAIR attribute field is exactly one byte (R34). -/
  | notOneByte
  deriving DecidableEq, Repr

/-- What the bytes are fetched as: a descriptor of a walk (with the regime's byte order,
`reversedescriptors`, R67), or the MAIR byte an AttrIndx selects (R246). -/
inductive FetchContext where
  | descriptor (reversed : Bool) (c : DescContext)
  | mair
  deriving DecidableEq, Repr

/-- The fields of a stage 1 table descriptor, EL1&0 (R93). -/
def decodeTableS1El10 (w : Word) : TableS1El10 where
  ns := w.getLsbD 63
  apRo := w.getLsbD 62
  apPriv := w.getLsbD 61
  xn := w.getLsbD 60
  pxn := w.getLsbD 59
  addr := w.extractLsb' 12 36

/-- The fields of a stage 1 table descriptor, EL2 and EL3 (R214). -/
def decodeTableS1El2El3 (w : Word) : TableS1El2El3 where
  ns := w.getLsbD 63
  apRo := w.getLsbD 62
  xn := w.getLsbD 60
  addr := w.extractLsb' 12 36

/-- The fields of a stage 1 block or page descriptor (R95). -/
def decodeLeafS1 (w : Word) : LeafS1 where
  xn := w.getLsbD 54
  pxn := w.getLsbD 53
  contiguous := w.getLsbD 52
  addr := w.extractLsb' 12 36
  nG := w.getLsbD 11
  af := w.getLsbD 10
  sh := w.extractLsb' 8 2
  ap := w.extractLsb' 6 2
  ns := w.getLsbD 5
  attrIndx := w.extractLsb' 2 3

/-- The fields of a stage 2 block or page descriptor (R95, R227). -/
def decodeLeafS2 (w : Word) : LeafS2 where
  xn := w.getLsbD 54
  pxn := w.getLsbD 53
  contiguous := w.getLsbD 52
  addr := w.extractLsb' 12 36
  nG := w.getLsbD 11
  af := w.getLsbD 10
  sh := w.extractLsb' 8 2
  s2ap := w.extractLsb' 6 2
  memAttr := w.extractLsb' 2 4

/-- The descriptor a 64-bit word is, in its context (R91, R210, R211, R217). -/
def decodeDescriptor (c : DescContext) (w : Word) : Instr :=
  match w.getLsbD 0, w.getLsbD 1 with
  | false, _ => .descInvalid
  | true, false =>
    if c.level = 3 then .descReservedL3
    else if c.level.val < firstblocklevel c.granule then .descBlockNotAllowed
    else
      match c.stage with
      | .s1El10 => .descBlockS1 (decodeLeafS1 w)
      | .s1El2El3 => .descBlockS1 (decodeLeafS1 w)
      | .s2 => .descBlockS2 (decodeLeafS2 w)
  | true, true =>
    if c.level = 3 then
      match c.stage with
      | .s1El10 => .descPageS1 (decodeLeafS1 w)
      | .s1El2El3 => .descPageS1 (decodeLeafS1 w)
      | .s2 => .descPageS2 (decodeLeafS2 w)
    else
      match c.stage with
      | .s1El10 => .descTableS1El10 (decodeTableS1El10 w)
      | .s1El2El3 => .descTableS1El2El3 (decodeTableS1El2El3 w)
      | .s2 => .descTableS2 (w.extractLsb' 12 36)

/-- The attribute row an 8-bit MAIR field is (R109, R247 to R249). -/
def decodeMair (b : Byte) : Instr :=
  let o := b.extractLsb' 4 4
  let i := b.extractLsb' 0 4
  let d := b.extractLsb' 2 2
  if o = 0 then
    match b.getLsbD 1, b.getLsbD 0 with
    | false, false =>
      if d = 0b00 then .mairDeviceNGnRnE
      else if d = 0b01 then .mairDeviceNGnRE
      else if d = 0b10 then .mairDeviceNGRE
      else .mairDeviceGRE
    | false, true => .mairReservedDevice01 d
    | true, false => .mairReservedDevice10 d
    | true, true => .mairReservedDevice11 d
  else if i = 0 then .mairReservedNormal o
  else .mairNormal o i

/-- Decode the bytes fetched, the byte at the lowest address first: a descriptor is read little-endian (R66)
and byte-reversed when the regime says so (R67, R209). -/
def decode (c : FetchContext) (bs : List Byte) : Except DecodeError Instr :=
  match c with
  | .descriptor reversed dc =>
    match wordOfBytes bs with
    | some w => .ok (decodeDescriptor dc (if reversed then bigEndianReverse w else w))
    | none => .error .notEightBytes
  | .mair =>
    match bs with
    | [b] => .ok (decodeMair b)
    | _ => .error .notOneByte

/-- The context condition of the term's row (`context` in spec/opcode_table.json): a word of that row, read
in the context `c`, decodes to that row (R91, R114). The MAIR rows are no descriptors. -/
def fitsContext (c : DescContext) : Instr → Bool
  | .descInvalid => true
  | .descReservedL3 => c.level == 3
  | .descBlockNotAllowed => c.level.val < firstblocklevel c.granule
  | .descTableS1El10 _ => c.level != 3 && c.stage == .s1El10
  | .descTableS1El2El3 _ => c.level != 3 && c.stage == .s1El2El3
  | .descTableS2 _ => c.level != 3 && c.stage == .s2
  | .descBlockS1 _ => c.level != 3 && decide (firstblocklevel c.granule ≤ c.level.val) && c.stage != .s2
  | .descPageS1 _ => c.level == 3 && c.stage != .s2
  | .descBlockS2 _ => c.level != 3 && decide (firstblocklevel c.granule ≤ c.level.val) && c.stage == .s2
  | .descPageS2 _ => c.level == 3 && c.stage == .s2
  | .mairDeviceNGnRnE => false
  | .mairDeviceNGnRE => false
  | .mairDeviceNGRE => false
  | .mairDeviceGRE => false
  | .mairReservedDevice01 _ => false
  | .mairReservedDevice10 _ => false
  | .mairReservedDevice11 _ => false
  | .mairReservedNormal _ => false
  | .mairNormal _ _ => false

/-- One bit of an encoding. -/
abbrev bit1 (b : Bool) : BitVec 1 := BitVec.ofBool b

/-- The word of a stage 1 block or page with the given bits [1:0] (R95). -/
def encodeLeafS1 (f : LeafS1) (low : BitVec 2) : Word :=
  0#9 ++ bit1 f.xn ++ bit1 f.pxn ++ bit1 f.contiguous ++ 0#4 ++ f.addr ++ bit1 f.nG ++ bit1 f.af
    ++ f.sh ++ f.ap ++ bit1 f.ns ++ f.attrIndx ++ low

/-- The word of a stage 2 block or page with the given bits [1:0] (R95, R227). -/
def encodeLeafS2 (f : LeafS2) (low : BitVec 2) : Word :=
  0#9 ++ bit1 f.xn ++ bit1 f.pxn ++ bit1 f.contiguous ++ 0#4 ++ f.addr ++ bit1 f.nG ++ bit1 f.af
    ++ f.sh ++ f.s2ap ++ f.memAttr ++ low

/-- The encoding of a term: a 64-bit descriptor, or an 8-bit MAIR field in the low byte. Bits the section
never reads are written 0 (R102; notes/assumptions/39.md). -/
def encodeWord : Instr → Word
  | .descInvalid => 0
  | .descReservedL3 => 1
  | .descBlockNotAllowed => 1
  | .descTableS1El10 t =>
    bit1 t.ns ++ bit1 t.apRo ++ bit1 t.apPriv ++ bit1 t.xn ++ bit1 t.pxn ++ 0#11 ++ t.addr ++ 0#10 ++ 0b11#2
  | .descTableS1El2El3 t =>
    bit1 t.ns ++ bit1 t.apRo ++ 0#1 ++ bit1 t.xn ++ 0#1 ++ 0#11 ++ t.addr ++ 0#10 ++ 0b11#2
  | .descTableS2 a => 0#16 ++ a ++ 0#10 ++ 0b11#2
  | .descBlockS1 f => encodeLeafS1 f 0b01
  | .descPageS1 f => encodeLeafS1 f 0b11
  | .descBlockS2 f => encodeLeafS2 f 0b01
  | .descPageS2 f => encodeLeafS2 f 0b11
  | .mairDeviceNGnRnE => 0x00
  | .mairDeviceNGnRE => 0x04
  | .mairDeviceNGRE => 0x08
  | .mairDeviceGRE => 0x0C
  | .mairReservedDevice01 d => 0#56 ++ 0#4 ++ d ++ 0b01#2
  | .mairReservedDevice10 d => 0#56 ++ 0#4 ++ d ++ 0b10#2
  | .mairReservedDevice11 d => 0#56 ++ 0#4 ++ d ++ 0b11#2
  | .mairReservedNormal o => 0#56 ++ o ++ 0#4
  | .mairNormal o i => 0#56 ++ o ++ i

/-- The bytes of a term as memory or the MAIR register holds them: a descriptor's eight bytes in the regime's
byte order (R66, R67), a MAIR field's one byte. -/
def encode (reversed : Bool) (i : Instr) : List Byte :=
  if i.isMair then [(encodeWord i).extractLsb' 0 8]
  else bytesOfWord (if reversed then bigEndianReverse (encodeWord i) else encodeWord i)

/-- The context in which `decodeTableWord` reads a descriptor's bits, which the bits alone do not decide
(R114): stage 1 of the EL2 or EL3 regime, 4KB granule, lookup level 2 (notes/assumptions/27.md). -/
def tableContext : DescContext := { level := 2, stage := .s1El2El3, granule := .small }

/-- The instruction the decoder reads from the bits `w` of an opcode-table row of `nbits` bits: a MAIR
attribute field when the row has at most 8 bits, else a descriptor stored little-endian and read in
`tableContext`. -/
def decodeTableWord (nbits w : Nat) : Option Instr :=
  if nbits ≤ 8 then (decode .mair [BitVec.ofNat 8 w]).toOption
  else (decode (.descriptor false tableContext) (bytesOfWord (BitVec.ofNat 64 w))).toOption

end Sys2Proof
end

