-- ==== Sys2Proof/Machine/Types.lean ====
section
/-! DEFINITION. The data types of the section: Exception levels, access types, memory attributes, fault
records, address descriptors, TLB records, translation requests (rules R21, R40 to R49 of
spec/10_state.md, R120 of spec/40_full_translate.md). -/

namespace Sys2Proof.Machine

/-- `PSTATE.EL` (R21). -/
inductive El where
  | el0
  | el1
  | el2
  | el3
  deriving DecidableEq, Repr, Inhabited

/-- `AccType` (R48). The section tells only `ifetch` from the rest, its external functions also `unpriv`;
the list is PRESUMED (notes/assumptions/42.md). -/
inductive AccType where
  | normal
  | vec
  | stream
  | vecstream
  | atomic
  | ordered
  | unpriv
  | ifetch
  | ptw
  | dc
  | ic
  | addrTranslation
  deriving DecidableEq, Repr, Inhabited

/-- `MemType` (R46). -/
inductive MemType where
  | normal
  | device
  deriving DecidableEq, Repr, Inhabited

/-- `DeviceType` (R46). -/
inductive DeviceType where
  | nGnRnE
  | nGnRE
  | nGRE
  | gre
  deriving DecidableEq, Repr, Inhabited

/-- `MemAttr_NC`, `MemAttr_WT`, `MemAttr_WB` (R45). -/
inductive MemAttr where
  | nc
  | wt
  | wb
  deriving DecidableEq, Repr, Inhabited

/-- `MemHint_No`, `MemHint_WA`, `MemHint_RA`, `MemHint_RWA` (R45); that `wa` exists is PRESUMED
(notes/assumptions/48.md). -/
inductive MemHint where
  | no
  | wa
  | ra
  | rwa
  deriving DecidableEq, Repr, Inhabited

/-- `MemAttrHints` (R45); `transient` is PRESUMED (notes/assumptions/48.md). -/
structure MemAttrHints where
  attrs : MemAttr
  hints : MemHint
  transient : Bool
  deriving DecidableEq, Repr, Inhabited

/-- `MemoryAttributes` (R44). `type` is spelt `memtype`. That it has no further field is a DESIGN CHOICE
(notes/assumptions/47.md). -/
structure MemoryAttributes where
  memtype : MemType
  device : DeviceType
  inner : MemAttrHints
  outer : MemAttrHints
  shareable : Bool
  outershareable : Bool
  deriving DecidableEq, Repr, Inhabited

/-- A `MemoryAttributes` record in which only the fields meaningful for its type were assigned: what
`MemAttrDefaults` is given (R250). -/
inductive AttrSpec where
  | device (d : DeviceType)
  | normal (inner outer : MemAttrHints) (shareable outershareable : Bool)
  deriving DecidableEq, Repr, Inhabited

/-- `Permissions` (R41): `ap` 3 bits, execute-never, privileged execute-never. -/
structure Permissions where
  ap : BitVec 3
  xn : Bool
  pxn : Bool
  deriving DecidableEq, Repr, Inhabited

/-- `FullAddress` (R43): 48-bit address; `ns` is TRUE for the Non-secure space. That it has no further field is a
DESIGN CHOICE (notes/assumptions/47.md). -/
structure FullAddress where
  physicaladdress : PAddr
  ns : Bool
  deriving DecidableEq, Repr, Inhabited

/-- The fault kinds of the section (R47, R281); `none` is the no-fault record's. -/
inductive FaultKind where
  | none
  | translation
  | addressSize
  | accessFlag
  | permission
  | alignment
  deriving DecidableEq, Repr, Inhabited

/-- `FaultRecord` (R47, R287). -/
structure FaultRecord where
  kind : FaultKind
  ipaddress : PAddr
  level : Int
  acctype : AccType
  write : Bool
  secondstage : Bool
  s2fs1walk : Bool
  deriving DecidableEq, Repr, Inhabited

/-- `AddressDescriptor`: the four fields R42 gives from use. Whether the type has further ones is not in the sources;
that it has none here is a DESIGN CHOICE (notes/assumptions/47.md). -/
structure AddressDescriptor where
  fault : FaultRecord
  memattrs : MemoryAttributes
  paddress : FullAddress
  vaddress : Word
  deriving DecidableEq, Repr, Inhabited

/-- `TLBRecord` (R40); `blocksize` is in bytes (R223). -/
structure TLBRecord where
  perms : Permissions
  nG : Bool
  domain : BitVec 4
  contiguous : Bool
  level : Int
  blocksize : Int
  addrdesc : AddressDescriptor
  deriving DecidableEq, Repr, Inhabited

/-- The arguments of `AArch64.FullTranslate` (R120, R64). -/
structure Request where
  vaddress : Word
  acctype : AccType
  iswrite : Bool
  wasaligned : Bool
  size : Nat
  deriving DecidableEq, Repr, Inhabited

end Sys2Proof.Machine
end

