-- ==== Sys2Proof/Config.lean ====
section
/-! DEFINITION. What one implementation fixes (rule R6 of spec/00_scope.md, 93_implementation_defined.md
sections 1 and 2) and the free values the architecture leaves open (section 3, decision D8). -/

namespace Sys2Proof

open Sys2Proof.Machine

/-- The implemented physical address size, and an output address size (R6, R201): one of 32, 36, 40, 42, 44,
48 bits. The set is PRESUMED for `PAMax()` (R6; notes/assumptions/9.md). -/
inductive PaSize where
  | bits32
  | bits36
  | bits40
  | bits42
  | bits44
  | bits48
  deriving DecidableEq, Repr, Inhabited

/-- What `ConstrainUnpredictable()` may answer at an input size limit (R185). -/
inductive TszChoice where
  | force
  | fault
  deriving DecidableEq, Repr, Inhabited

/-- What it may answer when the stage 2 input size exceeds `PAMax()` (R197). -/
inductive S2SizeChoice where
  | force
  | forceNoSlCheck
  | fault
  deriving DecidableEq, Repr, Inhabited

/-- What it may answer for an instruction fetch from Device memory (R274). -/
inductive FetchChoice where
  | none
  | fault
  deriving DecidableEq, Repr, Inhabited

/-- An allocated MAIR attribute encoding (R109): a Device kind, or Normal with both nibbles not zero (a nibble
is the number plus one). -/
inductive MairAllocated where
  | device (d : DeviceType)
  | normal (outer inner : Fin 15)
  deriving DecidableEq, Repr, Inhabited

/-- One choice site: the same choice at every call, or a fresh free choice at each (D3, D4;
notes/assumptions/7.md). -/
inductive Policy (α : Type) where
  | fixed (c : α)
  | perCall
  deriving DecidableEq, Repr, Inhabited

/-- The parameters of one implementation (R6). -/
structure Implementation where
  /-- `PAMax()` (R278, D6). -/
  pamax : PaSize
  /-- `HaveEL(EL2)` (R23). -/
  haveEl2 : Bool
  /-- `HaveEL(EL3)` (R23). -/
  haveEl3 : Bool
  /-- What `IsSecure()` is at EL1 and EL0 where EL3 is not implemented (R22; notes/assumptions/18.md). -/
  secureWithoutEl3 : Bool
  /-- "Translation fault on misprogrammed contiguous bit" (R218, D5). -/
  impdefContigFault : Bool
  /-- Site `cu_tsz_max` (R185). -/
  cuTszMax : Policy TszChoice
  /-- Site `cu_tsz_min` (R185). -/
  cuTszMin : Policy TszChoice
  /-- Site `cu_s2_inputsize_pamax` (R197). -/
  cuS2InputsizePamax : Policy S2SizeChoice
  /-- Site `cu_instr_device` (R274). -/
  cuInstrDevice : Policy FetchChoice
  /-- Site `cu_mair_bits` (R247, D4). -/
  cuMairBits : Policy MairAllocated
  deriving DecidableEq, Repr

/-- Where the section leaves a value open: the place of the draw. -/
inductive Place where
  /-- `AArch64.FirstStageTranslate`'s `ipaddress` (R133). -/
  | firstStage
  /-- `AArch64.TranslateAddressS1Off` (R146, R148, R151 to R154). -/
  | s1Off
  /-- Setting up a stage 1 walk (R185, R189). -/
  | walkS1
  /-- Setting up a stage 2 walk (R185, R193, R197). -/
  | walkS2
  /-- The descriptor address of a stage 1 walk (R182, R206). -/
  | descAddrS1
  /-- The descriptor address of a stage 2 walk (R182, R206). -/
  | descAddrS2
  /-- The record of a successful stage 1 walk (R223, R228). -/
  | resultS1
  /-- The record of a successful stage 2 walk (R223, R227, R228). -/
  | resultS2
  /-- `AArch64.S1AttrDecode` (R247 to R250). -/
  | s1Attr
  /-- `S2AttrDecode` (R277). -/
  | s2Attr
  /-- A fault of stage 1, or of the walk of a stage 1 descriptor: the unassigned fields (R229). -/
  | faultS1
  /-- A fault of a stage 2 walk: the unassigned fields (R229). -/
  | faultS2
  /-- The stage 1 Alignment fault (R136, R273). -/
  | alignS1
  /-- The stage 2 Alignment fault (R166, R273). -/
  | alignS2
  /-- `AArch64.CheckPermission` (R257). -/
  | checkPermission
  /-- `AArch64.CheckS2Permission` (R263, R264). -/
  | checkS2Permission
  /-- `AArch64.InstructionDevice` at stage 1 (R138, R274). -/
  | instrDeviceS1
  /-- `AArch64.InstructionDevice` at stage 2 (R168, R274). -/
  | instrDeviceS2
  /-- `CombineS1S2Desc` (R275). -/
  | combine
  deriving DecidableEq, Repr

/-- One draw of every kind of open value. A place reads the fields that it leaves open. -/
structure Unknown where
  /-- `bits(48) UNKNOWN` passed as an `ipaddress` (R133, R146, R257). -/
  ipaddress : PAddr
  /-- A fault record's `ipaddress` where the constructor takes none (R47). -/
  faultIpaddress : PAddr
  /-- A fault record's `level` where the constructor takes none (R47). -/
  faultLevel : Int
  /-- A fault record's `write` that nothing determines (R264; the no-fault record). -/
  faultWrite : Bool
  /-- The no-fault record's `secondstage` (R273). -/
  faultSecondstage : Bool
  /-- A fault record's `s2fs1walk` where the constructor takes none (R47). -/
  faultS2fs1walk : Bool
  /-- An unassigned `paddress` (R229). -/
  paddress : FullAddress
  /-- An unassigned `vaddress` (R228, R229). -/
  vaddress : Word
  /-- An unassigned `memattrs` (R229). -/
  memattrs : MemoryAttributes
  /-- The attributes of a reserved stage 2 MemAttr encoding (R277). -/
  attrSpec : AttrSpec
  /-- The `device` of Normal memory (R250). -/
  device : DeviceType
  /-- The `inner` of Device memory (R250). -/
  inner : MemAttrHints
  /-- The `outer` of Device memory (R250). -/
  outer : MemAttrHints
  /-- An unassigned `transient` (R148, R150, R274). -/
  transient : Bool
  /-- `bits(3) UNKNOWN` (R152). -/
  ap : BitVec 3
  /-- `bit UNKNOWN` (R153). -/
  nG : Bool
  /-- `boolean UNKNOWN` (R153). -/
  contiguous : Bool
  /-- `bits(4) UNKNOWN` (R153, R223). -/
  domain : BitVec 4
  /-- `integer UNKNOWN`, the record's level (R153). -/
  level : Int
  /-- `integer UNKNOWN`, the record's block size (R153). -/
  blocksize : Int
  /-- A choice at the upper input size limit (R185). -/
  tszMax : TszChoice
  /-- A choice at the lower input size limit (R185). -/
  tszMin : TszChoice
  /-- A choice at R197. -/
  s2Size : S2SizeChoice
  /-- A choice at R274. -/
  fetch : FetchChoice
  /-- A choice at R247. -/
  mair : MairAllocated
  deriving DecidableEq, Repr, Inhabited

/-- The free values: one draw for each place and each tick (D8; notes/assumptions/6.md). Nothing in Lean can
evaluate it or prove a value of it. -/
opaque Config.unknown : Place → Nat → Unknown

/-- `PAMax()` of the machine that `State.reset` describes (D6; notes/assumptions/5.md). -/
opaque Config.pamax : PaSize

/-- `HaveEL(EL2)` of the machine that `State.reset` describes (D7; notes/assumptions/5.md). -/
opaque Config.haveEl2 : Bool

/-- `secureWithoutEl3` of the machine that `State.reset` describes (notes/assumptions/5.md). -/
opaque Config.secureWithoutEl3 : Bool

/-- `impdef_contig_fault` of the machine that `State.reset` describes (D5; notes/assumptions/5.md). -/
opaque Config.impdefContigFault : Bool

end Sys2Proof
end

