-- ==== Sys2Proof/Machine/State.lean ====
section
/-! DEFINITION. The state of the unit: the implementation parameters, the execution context, the system
registers, the two physical memories, the requests and results, and the call in progress (spec/10_state.md;
INVENTORY.md, heading State). Every register field is a named field, as the head of spec/10_state.md
asks. -/

namespace Sys2Proof.Machine

/-- `SCTLR_ELx`: the fields of R25, and `C`, `WXN` of R35. -/
structure Sctlr where
  m : Bool
  i : Bool
  ee : Bool
  c : Bool
  wxn : Bool
  deriving DecidableEq, Repr

/-- `HCR_EL2`: the fields of R26, and `CD`, `ID` of R35 (`ID` is spelt `idd`). -/
structure Hcr where
  vm : Bool
  ptw : Bool
  dc : Bool
  tge : Bool
  cd : Bool
  idd : Bool
  deriving DecidableEq, Repr

/-- `TCR_EL1`: the fields of R27 (`A1` is spelt `asidSel`, `AS` `asidSize`), and `TBI0`, `TBI1` of R35. -/
structure TcrEl1 where
  t0sz : BitVec 6
  t1sz : BitVec 6
  tg0 : BitVec 2
  tg1 : BitVec 2
  epd0 : Bool
  epd1 : Bool
  sh0 : BitVec 2
  sh1 : BitVec 2
  orgn0 : BitVec 2
  orgn1 : BitVec 2
  irgn0 : BitVec 2
  irgn1 : BitVec 2
  ips : BitVec 3
  asidSel : Bool
  asidSize : Bool
  tbi0 : Bool
  tbi1 : Bool
  deriving DecidableEq, Repr

/-- `TCR_EL2` and `TCR_EL3`: the fields of R28 and R29, and `TBI` of R35. -/
structure TcrEl23 where
  t0sz : BitVec 6
  tg0 : BitVec 2
  ps : BitVec 3
  sh0 : BitVec 2
  orgn0 : BitVec 2
  irgn0 : BitVec 2
  tbi : Bool
  deriving DecidableEq, Repr

/-- `VTCR_EL2`: the fields of R30. -/
structure Vtcr where
  t0sz : BitVec 6
  sl0 : BitVec 2
  tg0 : BitVec 2
  ps : BitVec 3
  sh0 : BitVec 2
  orgn0 : BitVec 2
  irgn0 : BitVec 2
  deriving DecidableEq, Repr

/-- `SCR_EL3`: the fields of R35. -/
structure Scr where
  ns : Bool
  sif : Bool
  deriving DecidableEq, Repr

/-- The system registers the unit reads (R25 to R35, R51). -/
structure Registers where
  sctlrEl1 : Sctlr
  sctlrEl2 : Sctlr
  sctlrEl3 : Sctlr
  hcrEl2 : Hcr
  tcrEl1 : TcrEl1
  tcrEl2 : TcrEl23
  tcrEl3 : TcrEl23
  vtcrEl2 : Vtcr
  ttbr0El1 : Word
  ttbr1El1 : Word
  ttbr0El2 : Word
  ttbr0El3 : Word
  vttbrEl2 : Word
  mairEl1 : Word
  mairEl2 : Word
  mairEl3 : Word
  scrEl3 : Scr
  deriving DecidableEq, Repr

/-- One physical address space (R38, R62): the bytes that differ from what an unlisted address reads as, by
rising address. -/
abbrev Memory := List Host.Cell

/-- The locals of `AArch64.TranslationTableWalk` that live from one lookup to the next (R182 to R206).
`secondstage` and `s2fs1walk` are the walk's `Target`'s; `stride`, `firstblocklevel` the granule's. -/
structure Walk where
  /-- The argument `ipaddress` (R180). -/
  ipaddress : PAddr
  /-- `inputaddr` (R182). -/
  inputaddr : Word
  /-- `largegrain`, `midgrain` (R186). -/
  granule : Granule
  /-- `inputsize`, adjusted (R185, R197). -/
  inputsize : Nat
  /-- `outputsize` (R201). -/
  outputsize : PaSize
  /-- `level` (R192, R195, R215). -/
  level : Level
  /-- `baseaddress` (R203, R213). -/
  baseaddress : PAddr
  /-- `ns_table` (R204, R214). -/
  nsTable : Bool
  /-- `ap_table` (R204, R214). -/
  apTable : BitVec 2
  /-- `xn_table` (R204, R214). -/
  xnTable : Bool
  /-- `pxn_table` (R204, R214). -/
  pxnTable : Bool
  /-- `addrselecttop` (R205, R215). -/
  addrselecttop : Nat
  /-- `reversedescriptors` (R67, R189). -/
  reversedescriptors : Bool
  /-- `singlepriv` (R183). -/
  singlepriv : Bool
  /-- `descaddr.memattrs` (R189). -/
  memattrs : MemoryAttributes
  deriving DecidableEq, Repr

/-- Whose walk it is: `AArch64.FirstStageTranslate`'s; stage 2 of the access, with stage 1's result `s1`
(R122); or stage 2 of the stage 1 descriptor address `s1` (R207), with the suspended stage 1 walk. -/
inductive Target where
  | stage1
  | access (s1 : AddressDescriptor)
  | table (outer : Walk) (s1 : AddressDescriptor)
  deriving DecidableEq, Repr

/-- The call in progress: none; a walk about to read the descriptor at `d` (R209); a stage 1 walk that has
ended in a block or page, about to decode the MAIR byte `index` (R245), with the call's `ipaddress` (R133),
the record so far and the descriptor's SH. -/
inductive Phase where
  | idle
  | walking (req : Request) (w : Walk) (target : Target) (d : AddressDescriptor)
  | attr (req : Request) (ipaddress : PAddr) (r : TLBRecord) (sh : BitVec 2) (index : BitVec 3)
  deriving DecidableEq, Repr

/-- The state of the unit and of what it reads. -/
structure State where
  /-- The implementation parameters (R6). -/
  cfg : Implementation
  /-- `PSTATE.EL` (R21). -/
  el : El
  /-- `ELUsingAArch32(EL0)` (R60). -/
  el0Aarch32 : Bool
  /-- `ELUsingAArch32(EL1)` (R24). -/
  el1Aarch32 : Bool
  /-- `ELUsingAArch32(EL2)` (R24). -/
  el2Aarch32 : Bool
  /-- `ELUsingAArch32(EL3)` (R24). -/
  el3Aarch32 : Bool
  /-- The system registers (R25 to R35). -/
  regs : Registers
  /-- The Secure physical address space (R62). -/
  memS : Memory
  /-- The Non-secure physical address space (R62). -/
  memNS : Memory
  /-- The requests not yet taken (D27; the model's own). -/
  requests : List Request
  /-- The returned descriptors, oldest first (D27; the model's own). -/
  results : List AddressDescriptor
  /-- The call in progress. -/
  phase : Phase
  /-- The record the latest successful walk or flat map returned (the model's own). -/
  lastWalk : Option TLBRecord
  /-- The counter that indexes free values (the model's own). -/
  tick : Nat
  deriving DecidableEq, Repr

/-- Why the machine could stop with a fault. There is no such reason: the unit never raises an exception,
and every fault it reports is a value of the next state's `results` (R280). Safe: nothing is left out. -/
inductive Fault where
  deriving DecidableEq, Repr

/-- Why a step has no meaning. -/
inductive Refusal where
  /-- Raised by `exec` for an instruction without a meaning. Safe. -/
  | notModelled (mnemonic : String)
  /-- Raised at the start of a call whose stage 1 regime uses AArch32 (R131, R145, R181; D7, D9). Safe. -/
  | stage1RegimeAArch32
  /-- Raised by the stage 2 functions outside Non-secure EL1&0 with EL2 (R160, R162, R260; D9). Safe. -/
  | stage2Precondition
  /-- Raised by a stage 2 walk and its permission check with EL2 using AArch32 (R181, R260; D7, D9). Safe. -/
  | stage2AArch32
  /-- Raised by a descriptor's meaning when no walk is waiting for a descriptor: no step of the machine gets
  there. Safe. -/
  | noDescriptorDue
  /-- Raised by a descriptor's meaning at a level, stage or regime that is not its row's (R91, R114): no step
  of the machine gets there. Safe. -/
  | outsideRowContext
  /-- Raised by a MAIR field's meaning when no attribute is due: no step of the machine gets there. Safe. -/
  | noAttributeDue
  /-- `Unreachable()` (R248, R249; D9): a MAIR term whose nibbles are not its row's. Safe. -/
  | unreachable
  /-- Raised by `step` when bytes do not decode: no step of the machine gets there, since every eight bytes
  and every byte decode. Safe. -/
  | undecodable
  deriving DecidableEq, Repr

/-- The implementation that `State.reset` describes (notes/assumptions/5.md, 7.md). -/
def Implementation.reset : Implementation where
  pamax := Config.pamax
  haveEl2 := Config.haveEl2
  haveEl3 := true
  secureWithoutEl3 := Config.secureWithoutEl3
  impdefContigFault := Config.impdefContigFault
  cuTszMax := .perCall
  cuTszMin := .perCall
  cuS2InputsizePamax := .perCall
  cuInstrDevice := .perCall
  cuMairBits := .perCall

/-- `SCTLR_ELx` at reset (notes/assumptions/4.md). -/
def Sctlr.reset : Sctlr where
  m := false
  i := false
  ee := false
  c := false
  wxn := false

/-- `TCR_EL2` and `TCR_EL3` at reset (notes/assumptions/4.md). -/
def TcrEl23.reset : TcrEl23 where
  t0sz := 0
  tg0 := 0
  ps := 0
  sh0 := 0
  orgn0 := 0
  irgn0 := 0
  tbi := false

/-- `TCR_EL1` at reset (notes/assumptions/4.md). -/
def TcrEl1.reset : TcrEl1 where
  t0sz := 0
  t1sz := 0
  tg0 := 0
  tg1 := 0
  epd0 := false
  epd1 := false
  sh0 := 0
  sh1 := 0
  orgn0 := 0
  orgn1 := 0
  irgn0 := 0
  irgn1 := 0
  ips := 0
  asidSel := false
  asidSize := false
  tbi0 := false
  tbi1 := false

/-- The system registers at reset: the spec gives no value for any (R50, R310; notes/assumptions/4.md). -/
def Registers.reset : Registers where
  sctlrEl1 := Sctlr.reset
  sctlrEl2 := Sctlr.reset
  sctlrEl3 := Sctlr.reset
  hcrEl2 := { vm := false, ptw := false, dc := false, tge := false, cd := false, idd := false }
  tcrEl1 := TcrEl1.reset
  tcrEl2 := TcrEl23.reset
  tcrEl3 := TcrEl23.reset
  vtcrEl2 := { t0sz := 0, sl0 := 0, tg0 := 0, ps := 0, sh0 := 0, orgn0 := 0, irgn0 := 0 }
  ttbr0El1 := 0
  ttbr1El1 := 0
  ttbr0El2 := 0
  ttbr0El3 := 0
  vttbrEl2 := 0
  mairEl1 := 0
  mairEl2 := 0
  mairEl3 := 0
  scrEl3 := { ns := false, sif := false }

/-- The machine right after reset: the highest Exception level, no call in progress, no request, memory with
nothing listed (notes/assumptions/2.md, 3.md, 4.md, 5.md). -/
def State.reset : State where
  cfg := Implementation.reset
  el := .el3
  el0Aarch32 := false
  el1Aarch32 := false
  el2Aarch32 := false
  el3Aarch32 := false
  regs := Registers.reset
  memS := []
  memNS := []
  requests := []
  results := []
  phase := .idle
  lastWalk := none
  tick := 0

end Sys2Proof.Machine
end

