-- ==== Sys2Proof/Machine/Ops.lean ====
section
/-! DEFINITION. The named operations over memory, the execution context and the fault records, and the one
operation by which the unit returns a result (spec/10_state.md, spec/20_memory.md, spec/60_exceptions.md).
The unit takes no exception (R280): returning a fault record is its whole fault mechanism. -/

namespace Sys2Proof.Machine

/-! ### Physical memory (R38, R62, R66) -/

/-- What a byte that the memory does not list reads as (spec/95_test_vectors.md: "Memory not listed holds
zero"; notes/assumptions/3.md). -/
def Memory.unlisted : Byte := 0

/-- The byte at an address. -/
def Memory.read : Memory → Nat → Byte
  | [], _ => Memory.unlisted
  | (k, b) :: m, a => if k = a then b else Memory.read m a

/-- Place a byte, keeping the canonical form. The unit itself never writes (R70): this is how the platform
fills memory. -/
def Memory.write : Memory → Nat → Byte → Memory
  | [], a, b => if b = Memory.unlisted then [] else [(a, b)]
  | (k, c) :: m, a, b =>
    if a < k then
      if b = Memory.unlisted then (k, c) :: m else (a, b) :: (k, c) :: m
    else if a = k then
      if b = Memory.unlisted then m else (a, b) :: m
    else (k, c) :: Memory.write m a b

/-- Place bytes at rising addresses. -/
def Memory.writeBytes : Memory → Nat → List Byte → Memory
  | m, _, [] => m
  | m, a, b :: bs => Memory.writeBytes (Memory.write m a b) (a + 1) bs

/-- Addresses strictly rising from `lo` on, all below 2^48, none listed with the unlisted value. -/
def Memory.wfFrom : Nat → Memory → Bool
  | _, [] => true
  | lo, (k, b) :: m => decide (lo ≤ k) && decide (k < 2 ^ 48) && b != Memory.unlisted && Memory.wfFrom (k + 1) m

/-- The canonical form. -/
def Memory.wf (m : Memory) : Bool := Memory.wfFrom 0 m

/-- The physical memory of one space: `ns` TRUE is the Non-secure one (R43). -/
def State.mem (s : State) (ns : Bool) : Memory := if ns then s.memNS else s.memS

/-- The byte at a full address. -/
def State.readByte (s : State) (ns : Bool) (a : Nat) : Byte := Memory.read (s.mem ns) a

/-- The eight bytes `_Mem[ad, 8, AccType_PTW]` reads, the lowest address first (R66, R72). -/
def State.fetchBytes (s : State) (p : FullAddress) : List Byte :=
  [s.readByte p.ns p.physicaladdress.toNat, s.readByte p.ns (p.physicaladdress + 1).toNat,
   s.readByte p.ns (p.physicaladdress + 2).toNat, s.readByte p.ns (p.physicaladdress + 3).toNat,
   s.readByte p.ns (p.physicaladdress + 4).toNat, s.readByte p.ns (p.physicaladdress + 5).toNat,
   s.readByte p.ns (p.physicaladdress + 6).toNat, s.readByte p.ns (p.physicaladdress + 7).toNat]

/-! ### Execution context (R21 to R25, R34, R278) -/

/-- The number of bits of an address size (R201). -/
def PaSize.bits : PaSize → Nat
  | .bits32 => 32
  | .bits36 => 36
  | .bits40 => 40
  | .bits42 => 42
  | .bits44 => 44
  | .bits48 => 48

/-- The smaller address size: `if outputsize > PAMax() then outputsize = PAMax()` (R201). -/
def PaSize.limit (a b : PaSize) : PaSize := if PaSize.bits b < PaSize.bits a then b else a

/-- A site's choice: the fixed one, or this call's draw (D3). -/
def choose {α : Type} (p : Policy α) (drawn : α) : α :=
  match p with
  | .fixed c => c
  | .perCall => drawn

/-- The draw of the open values of a place in this step (D8). -/
def State.unknown (s : State) (p : Place) : Unknown := Config.unknown p s.tick

/-- `PSTATE.EL IN {EL0,EL1}`. -/
def State.inEl10 (s : State) : Bool := s.el == .el0 || s.el == .el1

/-- `IsSecure()` (R22; notes/assumptions/18.md). -/
def State.isSecure (s : State) : Bool :=
  match s.el with
  | .el3 => true
  | .el2 => false
  | .el1 => if s.cfg.haveEl3 then !s.regs.scrEl3.ns else s.cfg.secureWithoutEl3
  | .el0 => if s.cfg.haveEl3 then !s.regs.scrEl3.ns else s.cfg.secureWithoutEl3

/-- `HaveEL(EL2) && !IsSecure() && PSTATE.EL IN {EL0,EL1}`: the Non-secure EL1&0 regime with EL2 (R122,
R132). -/
def State.twoStages (s : State) : Bool := s.inEl10 && !s.isSecure && s.cfg.haveEl2

/-- `S1TranslationRegime()` (R24; notes/assumptions/19.md). -/
def State.s1Regime (s : State) : El :=
  match s.el with
  | .el0 => .el1
  | .el1 => .el1
  | .el2 => .el2
  | .el3 => .el3

/-- `ELUsingAArch32(el)` (R24). -/
def State.elUsingAArch32 (s : State) (e : El) : Bool :=
  match e with
  | .el0 => s.el0Aarch32
  | .el1 => s.el1Aarch32
  | .el2 => s.el2Aarch32
  | .el3 => s.el3Aarch32

/-- `SCTLR[]`: the register of the stage 1 regime (R25; notes/assumptions/19.md). -/
def State.sctlr (s : State) : Sctlr :=
  match s.el with
  | .el0 => s.regs.sctlrEl1
  | .el1 => s.regs.sctlrEl1
  | .el2 => s.regs.sctlrEl2
  | .el3 => s.regs.sctlrEl3

/-- `MAIR[]`: the register of the stage 1 regime (R34; notes/assumptions/19.md). -/
def State.mair (s : State) : Word :=
  match s.el with
  | .el0 => s.regs.mairEl1
  | .el1 => s.regs.mairEl1
  | .el2 => s.regs.mairEl2
  | .el3 => s.regs.mairEl3

/-- The MAIR byte an AttrIndx selects: `mair<8n+7:8n>` (R34, R246). -/
def State.mairByte (s : State) (index : BitVec 3) : Byte := s.mair.extractLsb' (8 * index.toNat) 8

/-- `AddrTop(address)` (R270, R271; notes/assumptions/10.md). -/
def State.addrTop (s : State) (address : Word) : Nat :=
  let tbi :=
    match s.el with
    | .el0 => if address.getLsbD 55 then s.regs.tcrEl1.tbi1 else s.regs.tcrEl1.tbi0
    | .el1 => if address.getLsbD 55 then s.regs.tcrEl1.tbi1 else s.regs.tcrEl1.tbi0
    | .el2 => s.regs.tcrEl2.tbi
    | .el3 => s.regs.tcrEl3.tbi
  if tbi then 55 else 63

/-! ### Fault records (R47, R273, R287) -/

/-- `AArch64.NoFault()`: only its kind and access type are determined (R273). -/
def noFault (u : Unknown) : FaultRecord where
  kind := .none
  ipaddress := u.faultIpaddress
  level := u.faultLevel
  acctype := .normal
  write := u.faultWrite
  secondstage := u.faultSecondstage
  s2fs1walk := u.faultS2fs1walk

/-- The four constructors that keep every argument: Translation, Address size, Access flag and Permission
(R273, D18). -/
def faultRecord (kind : FaultKind) (ipaddress : PAddr) (level : Int) (acctype : AccType)
    (iswrite secondstage s2fs1walk : Bool) : FaultRecord where
  kind := kind
  ipaddress := ipaddress
  level := level
  acctype := acctype
  write := iswrite
  secondstage := secondstage
  s2fs1walk := s2fs1walk

/-- `AArch64.AlignmentFault(acctype, iswrite, secondstage)`: no address, level or `s2fs1walk` is passed
(R273, R287). -/
def alignmentFault (u : Unknown) (acctype : AccType) (iswrite secondstage : Bool) : FaultRecord where
  kind := .alignment
  ipaddress := u.faultIpaddress
  level := u.faultLevel
  acctype := acctype
  write := iswrite
  secondstage := secondstage
  s2fs1walk := u.faultS2fs1walk

/-- `IsFault(ad)` (R42, R273; PRESUMED, notes/assumptions/48.md). -/
def AddressDescriptor.isFault (ad : AddressDescriptor) : Bool := ad.fault.kind != .none

/-- The address descriptor of which only `fault` was assigned (R229, D21). -/
def faultDescriptor (u : Unknown) (f : FaultRecord) : AddressDescriptor where
  fault := f
  memattrs := u.memattrs
  paddress := u.paddress
  vaddress := u.vaddress

/-! ### Moving on -/

/-- `secondstage` (R133, R163). -/
def Target.secondstage : Target → Bool
  | .stage1 => false
  | .access _ => true
  | .table _ _ => true

/-- `s2fs1walk` (R122, R133, R161). -/
def Target.s2fs1walk : Target → Bool
  | .stage1 => false
  | .access _ => false
  | .table _ _ => true

/-- The context that selects a descriptor's row in a walk (R91, R114). -/
def walkContext (w : Walk) (target : Target) : DescContext where
  level := w.level
  stage := if target.secondstage then .s2 else if w.singlepriv then .s1El2El3 else .s1El10
  granule := w.granule

/-- The call is at another place: one tick has passed. -/
def State.goto (s : State) (p : Phase) : State := { s with phase := p, tick := s.tick + 1 }

/-- The call returns `ad` (R123, R139, R280): the result joins `results`, and no call is in progress. -/
def State.finish (s : State) (ad : AddressDescriptor) : State :=
  { s with results := s.results ++ [ad], phase := .idle, tick := s.tick + 1 }

/-- The record a walk or the flat map returned (R145, R180). -/
def State.record (s : State) (r : TLBRecord) : State := { s with lastWalk := some r }

/-- A walk returns a fault made at its current place. For the stage 1 walk, and for the stage 2 walk of a
stage 1 descriptor (whose fault the stage 1 walk returns unchanged, R207), the call returns a descriptor of
which only the fault is assigned; for the stage 2 walk of the access the combined result carries it (R170,
R171, R229). In all three the call ends. -/
def State.finishFault (s : State) (target : Target) (f : FaultRecord) : State :=
  match target with
  | .stage1 => s.finish (faultDescriptor (s.unknown .faultS1) f)
  | .access _ => s.finish (faultDescriptor (s.unknown .faultS2) f)
  | .table _ _ => s.finish (faultDescriptor (s.unknown .faultS1) f)

/-- A fault of the walk at `level`, with the walk's own arguments (R210, R212, R217 to R220). -/
def walkFault (kind : FaultKind) (req : Request) (w : Walk) (target : Target) : FaultRecord :=
  faultRecord kind w.ipaddress w.level.val req.acctype req.iswrite target.secondstage target.s2fs1walk

end Sys2Proof.Machine
end

