-- ==== Sys2Proof/Machine/Operands.lean ====
section
/-! DEFINITION. How addresses are put together from register, descriptor and input-address fields (rule R115
of spec/30_encoding.md; R192, R195, R201, R203, R206, R213, R221 of spec/43_table_walk.md), and the numbers a
walk is set up with. -/

namespace Sys2Proof.Machine

/-- `TG0` (R103, R186): '01' 64KB, '10' 16KB, else 4KB. -/
def tg0Granule (tg : BitVec 2) : Granule :=
  if tg = 0b01 then .large else if tg = 0b10 then .mid else .small

/-- `TG1` (R103, R186): '11' 64KB, '01' 16KB, else 4KB. -/
def tg1Granule (tg : BitVec 2) : Granule :=
  if tg = 0b11 then .large else if tg = 0b01 then .mid else .small

/-- The output address size a `PS` or `IPS` field encodes (R104, R201). -/
def psSize (ps : BitVec 3) : PaSize :=
  if ps = 0b000 then .bits32
  else if ps = 0b001 then .bits36
  else if ps = 0b010 then .bits40
  else if ps = 0b011 then .bits42
  else if ps = 0b100 then .bits44
  else .bits48

/-- The input size with its CONSTRAINED UNPREDICTABLE limits (R185): above 48 the choice `cu_tsz_max`, below
25 the choice `cu_tsz_min`. -/
def limitInputSize (cfg : Implementation) (u : Unknown) (configured : Nat) : Nat :=
  let a :=
    if configured > 48 then
      match choose cfg.cuTszMax u.tszMax with
      | .force => 48
      | .fault => configured
    else configured
  if a < 25 then
    match choose cfg.cuTszMin u.tszMin with
    | .force => 25
    | .fault => a
  else a

/-- `RoundUp(Real(a) / Real(b))` for a positive `b` (R10, R12). -/
def roundUpDiv (a b : Int) : Int := -((-a) / b)

/-- The stage 1 starting level, `4 - RoundUp(Real(inputsize - grainsize) / Real(stride))` (R192). -/
def startLevelS1 (g : Granule) (inputsize : Nat) : Int :=
  4 - roundUpDiv ((inputsize : Int) - grainsize g) (stride g)

/-- The stage 2 starting level from `SL0` (R195). -/
def startLevelS2 (g : Granule) (sl0 : BitVec 2) : Int :=
  match g with
  | .large => 3 - (sl0.toNat : Int)
  | .mid => 3 - (sl0.toNat : Int)
  | .small => 2 - (sl0.toNat : Int)

/-- A starting level as a lookup level, when it is one. -/
def levelOfInt (l : Int) : Option Level :=
  if l = 0 then some 0 else if l = 1 then some 1 else if l = 2 then some 2 else if l = 3 then some 3 else none

/-- `addrselectbottom = (3-level)*stride + grainsize` (R206). -/
def addrselectbottom (g : Granule) (l : Level) : Nat := (3 - l.val) * stride g + grainsize g

/-- `baseaddress = baseregister<47:baselowerbound>:Zeros(baselowerbound)` (R203). -/
def tableBase (baseregister : Word) (inputsize : Nat) (g : Granule) (l : Level) : PAddr :=
  clearLow (baseregister.setWidth 48) (3 + inputsize - addrselectbottom g l)

/-- `index = ZeroExtend(inputaddr<addrselecttop:addrselectbottom>:'000')` (R206). -/
def tableIndex (inputaddr : Word) (top bottom : Nat) : PAddr :=
  ((inputaddr.extractLsb' bottom (top + 1 - bottom)).setWidth 48) <<< 3

/-- The address bits of a descriptor, [47:12], in place. -/
def addrField (a : BitVec 36) : PAddr := a ++ 0#12

/-- `outputsize != 48 && !IsZero(v<47:outputsize>)` (R202, R212, R219). -/
def addressTooWide (v : PAddr) (outputsize : PaSize) : Bool :=
  PaSize.bits outputsize != 48 && !isZeroSlice v 47 (PaSize.bits outputsize)

/-- `baseaddress = desc<47:grainsize>:Zeros(grainsize)` (R213). -/
def nextTableBase (a : BitVec 36) (g : Granule) : PAddr := clearLow (addrField a) (grainsize g)

/-- `outputaddress = desc<47:addrselectbottom>:inputaddr<addrselectbottom-1:0>` (R221). -/
def outputAddress (a : BitVec 36) (inputaddr : Word) (bottom : Nat) : PAddr :=
  clearLow (addrField a) bottom ||| lowBits inputaddr bottom

/-- The address of the descriptor the walk reads at its level: `baseaddress OR index`, in the space
`ns_table` (R206, R74). -/
def descriptorAddress (w : Walk) : FullAddress where
  physicaladdress := w.baseaddress ||| tableIndex w.inputaddr w.addrselecttop (addrselectbottom w.granule w.level)
  ns := w.nsTable

/-- `descaddr`: the descriptor's address with the walk's attributes (R189, R206). Its fault is read as the
no-fault record (R275: "`s1desc` has no fault"; notes/assumptions/45.md). -/
def descaddr (u : Unknown) (w : Walk) : AddressDescriptor where
  fault := noFault u
  memattrs := w.memattrs
  paddress := descriptorAddress w
  vaddress := u.vaddress

/-- The next lookup level (R215). -/
def nextLevel (l : Level) : Level :=
  if l = 0 then 1 else if l = 1 then 2 else 3

/-- A table descriptor's effect on the walk (R213, R214, R215): the next table, the hierarchical attributes
accumulated, the next level. -/
def descend (w : Walk) (a : BitVec 36) (ns apRo apPriv xn pxn : Bool) : Walk :=
  { w with
    baseaddress := nextTableBase a w.granule
    nsTable := w.nsTable || ns
    apTable := w.apTable ||| (BitVec.ofBool apRo ++ BitVec.ofBool apPriv)
    xnTable := w.xnTable || xn
    pxnTable := w.pxnTable || pxn
    level := nextLevel w.level
    addrselecttop := addrselectbottom w.granule w.level - 1 }

/-- `contiguousbitcheck` (R218). -/
def contiguousBitCheck (w : Walk) : Bool :=
  match w.granule with
  | .large => w.level == 2 && decide (w.inputsize < 34)
  | .mid => w.level == 2 && decide (w.inputsize < 30)
  | .small => w.level == 1 && decide (w.inputsize < 34)

end Sys2Proof.Machine
end

