-- ==== Sys2Proof/Machine/Attributes.lean ====
section
/-! DEFINITION. Memory attributes: `WalkAttrDecode`, `AArch64.S1AttrDecode`, `MemAttrDefaults`,
`ShortConvertAttrsHints`, `LongConvertAttrsHints`, `S2AttrDecode`, `CombineS1S2Desc` (rules R240 to R251,
R275 to R277 of spec/44_support.md). The functions the sources do not define follow the reference
definitions of the spec (notes/assumptions/13.md to 16.md). -/

namespace Sys2Proof.Machine

/-- `MemAttrDefaults` (R250): Device memory is Outer Shareable with `inner`, `outer` UNKNOWN; Normal memory
has `device` UNKNOWN, and is Outer Shareable when Non-cacheable on both sides. -/
def memAttrDefaults (u : Unknown) (a : AttrSpec) : MemoryAttributes :=
  match a with
  | .device d =>
    { memtype := .device, device := d, inner := u.inner, outer := u.outer, shareable := true, outershareable := true }
  | .normal inner outer sh osh =>
    let nc := inner.attrs == .nc && outer.attrs == .nc
    { memtype := .normal, device := u.device, inner := inner, outer := outer,
      shareable := nc || sh, outershareable := nc || osh }

/-- Whether the stage 1 cache is disabled for this kind of access (R276). -/
def State.s1CacheDisabled (s : State) (acctype : AccType) : Bool :=
  if acctype = .ifetch then !s.sctlr.i else !s.sctlr.c

/-- Non-cacheable, no allocation hint. -/
def ncHints : MemAttrHints where
  attrs := .nc
  hints := .no
  transient := false

/-- The allocation hints of two bits: read-allocate, write-allocate (R276). -/
def hintsOfBits (b : BitVec 2) : MemHint :=
  if b = 0b00 then .no else if b = 0b01 then .wa else if b = 0b10 then .ra else .rwa

/-- `ShortConvertAttrsHints` (R108, R276). -/
def State.shortConvertAttrsHints (s : State) (rgn : BitVec 2) (acctype : AccType) : MemAttrHints :=
  if s.s1CacheDisabled acctype then ncHints
  else if rgn = 0b00 then ncHints
  else if rgn = 0b01 then { attrs := .wb, hints := .rwa, transient := false }
  else if rgn = 0b10 then { attrs := .wt, hints := .ra, transient := false }
  else { attrs := .wb, hints := .ra, transient := false }

/-- `LongConvertAttrsHints` (R109, R276). -/
def State.longConvertAttrsHints (s : State) (a : BitVec 4) (acctype : AccType) : MemAttrHints :=
  if s.s1CacheDisabled acctype then ncHints
  else if a = 0b0100 then ncHints
  else
    let rw := hintsOfBits (a.extractLsb' 0 2)
    let kind := a.extractLsb' 2 2
    if kind = 0b00 then { attrs := .wt, hints := rw, transient := true }
    else if kind = 0b01 then { attrs := .wb, hints := rw, transient := true }
    else if kind = 0b10 then { attrs := .wt, hints := rw, transient := false }
    else { attrs := .wb, hints := rw, transient := false }

/-- `shareable = SH<1> == '1'` (R107). -/
def shShareable (sh : BitVec 2) : Bool := sh.getLsbD 1

/-- `outershareable = SH == '10'` (R107). -/
def shOutershareable (sh : BitVec 2) : Bool := sh == 0b10

/-- `WalkAttrDecode(SH, ORGN, IRGN)` (R240, R241). -/
def State.walkAttrDecode (s : State) (u : Unknown) (sh orgn irgn : BitVec 2) : MemoryAttributes :=
  memAttrDefaults u
    (.normal (s.shortConvertAttrsHints irgn .normal) (s.shortConvertAttrsHints orgn .normal)
      (shShareable sh) (shOutershareable sh))

/-- The Normal attributes of two MAIR nibbles (R249). -/
def State.normalSpec (s : State) (outer inner : BitVec 4) (sh : BitVec 2) (acctype : AccType) : AttrSpec :=
  .normal (s.longConvertAttrsHints inner acctype) (s.longConvertAttrsHints outer acctype)
    (shShareable sh) (shOutershareable sh)

/-- The attributes an allocated encoding stands for (R247 to R249). -/
def State.allocatedSpec (s : State) (m : MairAllocated) (sh : BitVec 2) (acctype : AccType) : AttrSpec :=
  match m with
  | .device d => .device d
  | .normal outer inner =>
    s.normalSpec (BitVec.ofNat 4 (outer.val + 1)) (BitVec.ofNat 4 (inner.val + 1)) sh acctype

/-- The attributes of a reserved MAIR encoding: those of the allocated encoding the implementation maps it
to (R247, D4). -/
def State.reservedSpec (s : State) (u : Unknown) (sh : BitVec 2) (acctype : AccType) : AttrSpec :=
  s.allocatedSpec (choose s.cfg.cuMairBits u.mair) sh acctype

/-- `AArch64.S1AttrDecode(SH, attr, acctype)` in one piece, as the pseudocode of section B of
spec/44_support.md writes it (R245 to R249). The machine reaches the same attributes by decoding the MAIR
byte to its row and carrying the row out. -/
def State.s1AttrDecode (s : State) (u : Unknown) (sh : BitVec 2) (attr : BitVec 3) (acctype : AccType) :
    MemoryAttributes :=
  let attrfield := s.mairByte attr
  let hi := attrfield.extractLsb' 4 4
  let lo := attrfield.extractLsb' 0 4
  memAttrDefaults u <|
    if (hi != 0 && lo == 0) || (hi == 0 && attrfield.extractLsb' 0 2 != 0) then s.reservedSpec u sh acctype
    else if hi = 0 then
      if lo = 0b0000 then .device .nGnRnE
      else if lo = 0b0100 then .device .nGnRE
      else if lo = 0b1000 then .device .nGRE
      else .device .gre
    else s.normalSpec hi lo sh acctype

/-- Whether the stage 2 cache is disabled for this kind of access (R277). -/
def State.s2CacheDisabled (s : State) (acctype : AccType) : Bool :=
  if acctype = .ifetch then s.regs.hcrEl2.idd else s.regs.hcrEl2.cd

/-- `S2ConvertAttrsHints` (R110, R277). -/
def State.s2ConvertAttrsHints (s : State) (a : BitVec 2) (acctype : AccType) : MemAttrHints :=
  if a = 0b01 || s.s2CacheDisabled acctype then ncHints
  else if a = 0b10 then { attrs := .wt, hints := .rwa, transient := false }
  else { attrs := .wb, hints := .rwa, transient := false }

/-- `S2AttrDecode(SH, attr, acctype)` (R110, R277); a reserved encoding has free attributes. -/
def State.s2AttrDecode (s : State) (u : Unknown) (sh : BitVec 2) (attr : BitVec 4) (acctype : AccType) :
    MemoryAttributes :=
  let hi := attr.extractLsb' 2 2
  let lo := attr.extractLsb' 0 2
  memAttrDefaults u <|
    if hi = 0 then
      if lo = 0b00 then .device .nGnRnE
      else if lo = 0b01 then .device .nGnRE
      else if lo = 0b10 then .device .nGRE
      else .device .gre
    else if lo ≠ 0 then
      .normal (s.s2ConvertAttrsHints lo acctype) (s.s2ConvertAttrsHints hi acctype)
        (shShareable sh) (shOutershareable sh)
    else u.attrSpec

/-- From most to least restrictive (R275). -/
def deviceRank : DeviceType → Nat
  | .nGnRnE => 0
  | .nGnRE => 1
  | .nGRE => 2
  | .gre => 3

/-- The more restrictive of two Device types (R275). -/
def combineDevice (a b : DeviceType) : DeviceType := if deviceRank a ≤ deviceRank b then a else b

/-- The combined cacheability: Non-cacheable if either is, else Write-Through if either is, else Write-Back;
hints and `transient` are stage 1's (R275). -/
def combineHints (a b : MemAttrHints) : MemAttrHints where
  attrs :=
    if a.attrs = .nc || b.attrs = .nc then .nc else if a.attrs = .wt || b.attrs = .wt then .wt else .wb
  hints := a.hints
  transient := a.transient

/-- The combined attributes of the two stages (R275). -/
def combineSpec (a b : MemoryAttributes) : AttrSpec :=
  match a.memtype, b.memtype with
  | .device, .device => .device (combineDevice a.device b.device)
  | .device, .normal => .device a.device
  | .normal, .device => .device b.device
  | .normal, .normal =>
    .normal (combineHints a.inner b.inner) (combineHints a.outer b.outer)
      (a.shareable || b.shareable) (a.outershareable || b.outershareable)

/-- `CombineS1S2Desc(s1desc, s2desc)` (R170, R275). -/
def combineS1S2Desc (u : Unknown) (s1 s2 : AddressDescriptor) : AddressDescriptor :=
  if s1.isFault then s1
  else if s2.isFault then s2
  else
    { fault := noFault u
      memattrs := memAttrDefaults u (combineSpec s1.memattrs s2.memattrs)
      paddress := s2.paddress
      vaddress := u.vaddress }

end Sys2Proof.Machine
end

