-- ==== Sys2Proof/Machine/Permissions.lean ====
section
/-! DEFINITION. `AArch64.CheckPermission` (rule R257, the spec's reference definition; notes/assumptions/11.md),
`AArch64.CheckS2Permission` (R260 to R266) and `AArch64.InstructionDevice` (R274; notes/assumptions/12.md) of
spec/44_support.md. -/

namespace Sys2Proof.Machine

/-- What an access may do: read, write, and whether a fetch is forbidden. -/
structure AccessRights where
  r : Bool
  w : Bool
  xn : Bool
  deriving DecidableEq, Repr

/-- The rights at EL1 in the EL1&0 regime (R257). -/
def privRights (p : Permissions) (wxn : Bool) : AccessRights :=
  let userW := p.ap.extractLsb' 1 2 == 0b01
  let privW := !p.ap.getLsbD 2
  { r := true, w := privW, xn := p.pxn || (privW && wxn) || userW }

/-- The rights at EL0, and of `AccType_UNPRIV` accesses at EL1 (R257). -/
def userRights (p : Permissions) (wxn : Bool) : AccessRights :=
  let userW := p.ap.extractLsb' 1 2 == 0b01
  { r := p.ap.getLsbD 1, w := userW, xn := p.xn || (userW && wxn) }

/-- The rights in the EL2 and EL3 regimes (R257). -/
def singleRights (p : Permissions) (wxn : Bool) : AccessRights :=
  let w := !p.ap.getLsbD 2
  { r := true, w := w, xn := p.xn || (w && wxn) }

/-- The rights of the regime and the privilege of the access (R257, R300). -/
def State.s1Rights (s : State) (p : Permissions) (acctype : AccType) : AccessRights :=
  let wxn := s.sctlr.wxn
  match s.el with
  | .el0 => userRights p wxn
  | .el1 => if acctype = .unpriv then userRights p wxn else privRights p wxn
  | .el2 => singleRights p wxn
  | .el3 => singleRights p wxn

/-- Secure instruction fetch from Non-secure memory is forbidden (R257). -/
def State.secureFetchForbidden (s : State) (ns : Bool) : Bool :=
  s.cfg.haveEl3 && s.isSecure && ns && s.regs.scrEl3.sif

/-- Whether stage 1 forbids the access (R257). -/
def State.s1Fails (s : State) (p : Permissions) (ns : Bool) (acctype : AccType) (iswrite : Bool) : Bool :=
  let k := s.s1Rights p acctype
  if acctype = .ifetch then k.xn || s.secureFetchForbidden ns
  else if iswrite then !k.w
  else !k.r

/-- `AArch64.CheckPermission(perms, vaddress, level, NS, acctype, iswrite)` (R256, R257). The fault's `write`
is `!failedread`, and a fetch fails as a read. -/
def State.checkPermission (s : State) (u : Unknown) (p : Permissions) (level : Int) (ns : Bool)
    (acctype : AccType) (iswrite : Bool) : FaultRecord :=
  if s.s1Fails p ns acctype iswrite then
    faultRecord .permission u.ipaddress level acctype (iswrite && acctype != .ifetch) false false
  else noFault u

/-- `AArch64.CheckS2Permission` after its assertion (R261 to R265): a stage 1 descriptor's translation is
checked as a read; a fetch needs only not-XN, and the `write` of its fault is not determined (R264). -/
def checkS2Permission (u : Unknown) (p : Permissions) (ipaddress : PAddr) (level : Int) (acctype : AccType)
    (iswrite s2fs1walk : Bool) : FaultRecord :=
  let r := p.ap.getLsbD 1
  let w := p.ap.getLsbD 2
  if acctype = .ifetch && !s2fs1walk then
    if p.xn then faultRecord .permission ipaddress level acctype u.faultWrite true s2fs1walk else noFault u
  else if iswrite && !s2fs1walk then
    if !w then faultRecord .permission ipaddress level acctype true true s2fs1walk else noFault u
  else if !r then faultRecord .permission ipaddress level acctype false true s2fs1walk else noFault u

/-- The assertion of `AArch64.CheckS2Permission` and of a stage 2 walk:
`HaveEL(EL2) && !IsSecure() && !ELUsingAArch32(EL2) && PSTATE.EL != EL2` (R181, R260). -/
def State.s2WalkAssert (s : State) : Bool :=
  s.cfg.haveEl2 && !s.isSecure && !s.el2Aarch32 && s.el != .el2

/-- `AArch64.InstructionDevice` (R138, R168, R274): a Permission fault, or the fetch is made as Normal
Non-cacheable, at the implementation's choice. -/
def State.instructionDevice (s : State) (u : Unknown) (ad : AddressDescriptor) (ipaddress : PAddr) (level : Int)
    (acctype : AccType) (iswrite secondstage s2fs1walk : Bool) : AddressDescriptor :=
  match choose s.cfg.cuInstrDevice u.fetch with
  | .fault =>
    { ad with fault := faultRecord .permission ipaddress level acctype iswrite secondstage s2fs1walk }
  | .none =>
    let nc : MemAttrHints := { attrs := .nc, hints := .no, transient := u.transient }
    { ad with memattrs := memAttrDefaults u (.normal nc nc ad.memattrs.shareable ad.memattrs.outershareable) }

end Sys2Proof.Machine
end

