-- ==== Sys2Proof/Machine/Translate.lean ====
section
/-! DEFINITION. The functions of the section around the descriptor: `AArch64.FullTranslate` (R120 to R124),
`AArch64.FirstStageTranslate` (R130 to R140), `AArch64.TranslateAddressS1Off` (R145 to R155),
`AArch64.SecondStageWalk` and `AArch64.SecondStageTranslate` (R160 to R171), and the parts of
`AArch64.TranslationTableWalk` before and after the lookup loop (R180 to R205, R217 to R229). A call is cut
where a descriptor or a MAIR byte is read; the meanings of those words carry it on. -/

namespace Sys2Proof.Machine

/-- The outcome of a step. -/
abbrev Result := Host.Outcome State Fault Refusal

/-! ### Setting up a walk -/

/-- What a walk is set up from: the fields of the regime's control register, its base register and byte order
(R183, R184, R189, R193). -/
structure WalkParams where
  tsz : BitVec 6
  granule : Granule
  /-- The upper range: the address bits above the range are ones (R184). -/
  upper : Bool
  ps : BitVec 3
  disabled : Bool
  baseregister : Word
  sh : BitVec 2
  orgn : BitVec 2
  irgn : BitVec 2
  reversedescriptors : Bool
  lookupsecure : Bool
  singlepriv : Bool
  deriving DecidableEq, Repr

/-- The EL3 regime (R183, R29). -/
def State.paramsEl3 (s : State) : WalkParams where
  tsz := s.regs.tcrEl3.t0sz
  granule := tg0Granule s.regs.tcrEl3.tg0
  upper := false
  ps := s.regs.tcrEl3.ps
  disabled := false
  baseregister := s.regs.ttbr0El3
  sh := s.regs.tcrEl3.sh0
  orgn := s.regs.tcrEl3.orgn0
  irgn := s.regs.tcrEl3.irgn0
  reversedescriptors := s.regs.sctlrEl3.ee
  lookupsecure := true
  singlepriv := true

/-- The EL2 regime (R183, R28). -/
def State.paramsEl2 (s : State) : WalkParams where
  tsz := s.regs.tcrEl2.t0sz
  granule := tg0Granule s.regs.tcrEl2.tg0
  upper := false
  ps := s.regs.tcrEl2.ps
  disabled := false
  baseregister := s.regs.ttbr0El2
  sh := s.regs.tcrEl2.sh0
  orgn := s.regs.tcrEl2.orgn0
  irgn := s.regs.tcrEl2.irgn0
  reversedescriptors := s.regs.sctlrEl2.ee
  lookupsecure := false
  singlepriv := true

/-- The EL1&0 regime, lower range (R184, R188). -/
def State.paramsLower (s : State) : WalkParams where
  tsz := s.regs.tcrEl1.t0sz
  granule := tg0Granule s.regs.tcrEl1.tg0
  upper := false
  ps := s.regs.tcrEl1.ips
  disabled := s.regs.tcrEl1.epd0
  baseregister := s.regs.ttbr0El1
  sh := s.regs.tcrEl1.sh0
  orgn := s.regs.tcrEl1.orgn0
  irgn := s.regs.tcrEl1.irgn0
  reversedescriptors := s.regs.sctlrEl1.ee
  lookupsecure := s.isSecure
  singlepriv := false

/-- The EL1&0 regime, upper range (R184, R188). -/
def State.paramsUpper (s : State) : WalkParams where
  tsz := s.regs.tcrEl1.t1sz
  granule := tg1Granule s.regs.tcrEl1.tg1
  upper := true
  ps := s.regs.tcrEl1.ips
  disabled := s.regs.tcrEl1.epd1
  baseregister := s.regs.ttbr1El1
  sh := s.regs.tcrEl1.sh1
  orgn := s.regs.tcrEl1.orgn1
  irgn := s.regs.tcrEl1.irgn1
  reversedescriptors := s.regs.sctlrEl1.ee
  lookupsecure := s.isSecure
  singlepriv := false

/-- Stage 2 (R193, R30): the walk attributes are matched by name (D11; notes/assumptions/29.md). -/
def State.paramsStage2 (s : State) : WalkParams where
  tsz := s.regs.vtcrEl2.t0sz
  granule := tg0Granule s.regs.vtcrEl2.tg0
  upper := false
  ps := s.regs.vtcrEl2.ps
  disabled := false
  baseregister := s.regs.vttbrEl2
  sh := s.regs.vtcrEl2.sh0
  orgn := s.regs.vtcrEl2.orgn0
  irgn := s.regs.vtcrEl2.irgn0
  reversedescriptors := s.regs.sctlrEl2.ee
  lookupsecure := false
  singlepriv := true

/-- The regime's parameters, and in the EL1&0 regime the range bit `top` of the address selects (R183,
R184). -/
def State.paramsStage1 (s : State) (inputaddr : Word) : WalkParams :=
  match s.el with
  | .el3 => s.paramsEl3
  | .el2 => s.paramsEl2
  | .el1 => if inputaddr.getLsbD (s.addrTop inputaddr) then s.paramsUpper else s.paramsLower
  | .el0 => if inputaddr.getLsbD (s.addrTop inputaddr) then s.paramsUpper else s.paramsLower

/-- Whether the input address is in the range (R187, R194): the size is legal, and the bits from `inputsize`
to `top` are all zeros, or in the upper range all ones. -/
def inRange (upper : Bool) (inputaddr : Word) (top inputsize : Nat) : Bool :=
  decide (25 ≤ inputsize) && decide (inputsize ≤ 48)
    && (if upper then isOnesSlice inputaddr top inputsize else isZeroSlice inputaddr top inputsize)

/-- The common setup (R199 to R205): the range and disable check, the output size, the base register check,
the table base, the initial hierarchical attributes. A fault found here has level 0. -/
def openWalk (pamax : PaSize) (p : WalkParams) (attrs : MemoryAttributes) (ipaddress : PAddr) (inputaddr : Word)
    (inputsize : Nat) (basefound : Bool) (startlevel : Int) : Except FaultKind Walk :=
  match basefound && !p.disabled, levelOfInt startlevel with
  | true, some l =>
    let outputsize := PaSize.limit (psSize p.ps) pamax
    if addressTooWide (p.baseregister.setWidth 48) outputsize then .error .addressSize
    else
      .ok
        { ipaddress := ipaddress
          inputaddr := inputaddr
          granule := p.granule
          inputsize := inputsize
          outputsize := outputsize
          level := l
          baseaddress := tableBase p.baseregister inputsize p.granule l
          nsTable := !p.lookupsecure
          apTable := 0
          xnTable := false
          pxnTable := false
          addrselecttop := inputsize - 1
          reversedescriptors := p.reversedescriptors
          singlepriv := p.singlepriv
          memattrs := attrs }
  | true, none => .error .translation
  | false, _ => .error .translation

/-- The stage 1 walk of an address (R182 to R192, R199 to R205). -/
def State.openStage1 (s : State) (inputaddr : Word) (ipaddress : PAddr) : Except FaultKind Walk :=
  let u := s.unknown .walkS1
  let p := s.paramsStage1 inputaddr
  let inputsize := limitInputSize s.cfg u (64 - p.tsz.toNat)
  openWalk s.cfg.pamax p (s.walkAttrDecode u p.sh p.orgn p.irgn) ipaddress inputaddr inputsize
    (inRange p.upper inputaddr (s.addrTop inputaddr) inputsize) (startLevelS1 p.granule inputsize)

/-- The level limits of stage 2 by implemented address size (R196). -/
def levelSupported (g : Granule) (level : Int) (pamax : PaSize) : Bool :=
  match g with
  | .large => !(level == 0 || (level == 1 && decide (PaSize.bits pamax ≤ 42)))
  | .mid => !(level == 0 || (level == 1 && decide (PaSize.bits pamax ≤ 40)))
  | .small => !(decide (level < 0) || (level == 0 && decide (PaSize.bits pamax ≤ 42)))

/-- The stage 2 input size against `PAMax()` (R197): the size used, the size checked, and whether the walk
may go on. -/
def State.stage2Size (s : State) (u : Unknown) (inputsize : Nat) : Nat × Nat × Bool :=
  let pamax := PaSize.bits s.cfg.pamax
  if inputsize > pamax && (!s.el1Aarch32 || decide (inputsize > 40)) then
    match choose s.cfg.cuS2InputsizePamax u.s2Size with
    | .force => (pamax, pamax, true)
    | .forceNoSlCheck => (pamax, inputsize, true)
    | .fault => (inputsize, inputsize, false)
  else (inputsize, inputsize, true)

/-- The starting table has at least 2 entries and at most 16 concatenated tables (R198). -/
def startSizeOk (g : Granule) (level : Int) (inputsizecheck : Nat) : Bool :=
  let startsizecheck : Int := inputsizecheck - ((3 - level) * stride g + grainsize g)
  !(decide (startsizecheck < 1) || decide (startsizecheck > stride g + 4))

/-- The stage 2 walk of an intermediate physical address (R193 to R205). -/
def State.openStage2 (s : State) (ipaddress : PAddr) : Except FaultKind Walk :=
  let u := s.unknown .walkS2
  let p := s.paramsStage2
  let inputaddr : Word := ipaddress.setWidth 64
  let inputsize := limitInputSize s.cfg u (64 - p.tsz.toNat)
  let level := startLevelS2 p.granule s.regs.vtcrEl2.sl0
  let size := s.stage2Size u inputsize
  let basefound :=
    inRange false inputaddr 63 inputsize && levelSupported p.granule level s.cfg.pamax && size.2.2
      && startSizeOk p.granule level size.2.1
  openWalk s.cfg.pamax p (s.walkAttrDecode u p.sh p.orgn p.irgn) ipaddress inputaddr size.1 basefound level

/-! ### Stage 2 -/

/-- `s2_enabled` (R163). -/
def State.s2Enabled (s : State) : Bool := s.regs.hcrEl2.vm || s.regs.hcrEl2.dc

/-- A walk about to read the descriptor `d` describes; `vaddress` is updated for abort functions (R208). -/
def State.atDescriptor (s : State) (req : Request) (w : Walk) (target : Target) (d : AddressDescriptor) : State :=
  s.goto (.walking req w target { d with vaddress := req.vaddress })

/-- `AArch64.SecondStageTranslate` on stage 1's result for the access (`outer` none, R162), or, as
`AArch64.SecondStageWalk`, on the address of a descriptor of the stage 1 walk `outer` (R160, R161): up to its
first descriptor, or to its end when stage 2 is off (R164) or the setup faults (R199, R202). -/
def State.secondStage (s : State) (req : Request) (s1 : AddressDescriptor) (outer : Option Walk) : Result :=
  if !s.twoStages then .refused .stage2Precondition
  else if !s.s2Enabled then
    match outer with
    | none => .next (s.finish s1)
    | some w => .next (s.atDescriptor req w .stage1 s1)
  else if !s.s2WalkAssert then .refused .stage2AArch32
  else
    let target : Target :=
      match outer with
      | none => .access s1
      | some w => .table w s1
    let ipaddress := s1.paddress.physicaladdress
    match s.openStage2 ipaddress with
    | .error k =>
      .next (s.finishFault target
        (faultRecord k ipaddress 0 req.acctype req.iswrite true target.s2fs1walk))
    | .ok w2 => .next (s.atDescriptor req w2 target (descaddr (s.unknown .descAddrS2) w2))

/-- The steps of `AArch64.SecondStageTranslate` after its walk: alignment (R166), permission (R167), fetch
from Device memory (R168), protected table walk (R169), in this order. -/
def State.stage2Checks (s : State) (req : Request) (r : TLBRecord) (ipaddress : PAddr) (target : Target) :
    AddressDescriptor :=
  let walk := target.s2fs1walk
  let aligned := req.wasaligned || walk
  let ad := r.addrdesc
  let ad :=
    if !aligned && req.acctype != .ifetch && !ad.isFault && ad.memattrs.memtype == .device then
      { ad with fault := alignmentFault (s.unknown .alignS2) req.acctype req.iswrite true }
    else ad
  let ad :=
    if !ad.isFault then
      { ad with
        fault := checkS2Permission (s.unknown .checkS2Permission) r.perms ipaddress r.level req.acctype
          req.iswrite walk }
    else ad
  let ad :=
    if req.acctype == .ifetch && !ad.isFault && ad.memattrs.memtype == .device then
      s.instructionDevice (s.unknown .instrDeviceS2) ad ipaddress r.level req.acctype req.iswrite true walk
    else ad
  if walk && !ad.isFault && s.regs.hcrEl2.ptw && ad.memattrs.memtype == .device then
    { ad with fault := faultRecord .permission ipaddress r.level req.acctype req.iswrite true true }
  else ad

/-- The end of a successful stage 2 walk with the record `r` (R166 to R170): the combined descriptor is the
call's result, or the address at which the suspended stage 1 walk reads its descriptor (R207). A stage 2
walk's assertion is checked again, as `AArch64.CheckS2Permission` asserts it (R260). -/
def State.afterStage2Walk (s : State) (req : Request) (w : Walk) (target : Target) (r : TLBRecord) : Result :=
  if !s.s2WalkAssert then .refused .stage2AArch32
  else
    let s := s.record r
    let s2 := s.stage2Checks req r w.ipaddress target
    match target with
    | .stage1 => .refused .outsideRowContext
    | .access s1 => .next (s.finish (combineS1S2Desc (s.unknown .combine) s1 s2))
    | .table outer s1 =>
      let d := combineS1S2Desc (s.unknown .combine) s1 s2
      if d.isFault then .next (s.finishFault target d.fault) else .next (s.atDescriptor req outer .stage1 d)

/-! ### Stage 1 -/

/-- A stage 1 walk at its next descriptor (R206, R207): the address is translated by stage 2 first in the
Non-secure EL1&0 regime with EL2. -/
def State.enterStage1 (s : State) (req : Request) (w : Walk) : Result :=
  let d := descaddr (s.unknown .descAddrS1) w
  if s.isSecure || s.el == .el2 || !s.cfg.haveEl2 then .next (s.atDescriptor req w .stage1 d)
  else s.secondStage req d (some w)

/-- A walk whose descriptor was a table goes on at the next level: a stage 1 descriptor address may be
translated first, a stage 2 one is not (R207). -/
def State.enterLevel (s : State) (req : Request) (w : Walk) (target : Target) : Result :=
  match target with
  | .stage1 => s.enterStage1 req w
  | .access s1 => .next (s.atDescriptor req w (.access s1) (descaddr (s.unknown .descAddrS2) w))
  | .table outer s1 => .next (s.atDescriptor req w (.table outer s1) (descaddr (s.unknown .descAddrS2) w))

/-- The steps of `AArch64.FirstStageTranslate` after the walk or the flat map: alignment (R136), permission
(R137), fetch from Device memory (R138), in this order. -/
def State.stage1Checks (s : State) (req : Request) (r : TLBRecord) (ipaddress : PAddr) (permissioncheck : Bool) :
    AddressDescriptor :=
  let ad := r.addrdesc
  let ad :=
    if !req.wasaligned && req.acctype != .ifetch && !ad.isFault && ad.memattrs.memtype == .device then
      { ad with fault := alignmentFault (s.unknown .alignS1) req.acctype req.iswrite false }
    else ad
  let ad :=
    if !ad.isFault && permissioncheck then
      { ad with
        fault := s.checkPermission (s.unknown .checkPermission) r.perms r.level ad.paddress.ns req.acctype
          req.iswrite }
    else ad
  if req.acctype == .ifetch && !ad.isFault && ad.memattrs.memtype == .device then
    s.instructionDevice (s.unknown .instrDeviceS1) ad ipaddress r.level req.acctype req.iswrite false false
  else ad

/-- `AArch64.FullTranslate` after stage 1 (R122, R123): stage 2 of the result in the Non-secure EL1&0 regime
with EL2, unless stage 1 faulted. -/
def State.afterStage1 (s : State) (req : Request) (ad : AddressDescriptor) : Result :=
  if s.twoStages && !ad.isFault then s.secondStage req ad none else .next (s.finish ad)

/-- `s1_enabled` (R132). -/
def State.s1Enabled (s : State) : Bool :=
  if s.twoStages then !s.regs.hcrEl2.tge && !s.regs.hcrEl2.dc && s.regs.sctlrEl1.m else s.sctlr.m

/-- `default_cacheable` (R147). -/
def State.defaultCacheable (s : State) : Bool := s.twoStages && s.regs.hcrEl2.dc

/-- The attributes the flat map assigns (R148 to R150). -/
def State.s1OffSpec (s : State) (u : Unknown) (acctype : AccType) : AttrSpec :=
  if s.defaultCacheable then
    let h : MemAttrHints := { attrs := .wb, hints := .rwa, transient := u.transient }
    .normal h h false false
  else if acctype ≠ .ifetch then .device .nGnRnE
  else if s.sctlr.i then
    let h : MemAttrHints := { attrs := .wt, hints := .ra, transient := u.transient }
    .normal h h true true
  else
    let h : MemAttrHints := { attrs := .nc, hints := .no, transient := u.transient }
    .normal h h true true

/-- `AArch64.TranslateAddressS1Off` after its size check (R147 to R154). -/
def State.s1OffRecord (s : State) (req : Request) : TLBRecord :=
  let u := s.unknown .s1Off
  { perms := { ap := u.ap, xn := false, pxn := false }
    nG := u.nG
    domain := u.domain
    contiguous := u.contiguous
    level := u.level
    blocksize := u.blocksize
    addrdesc :=
      { fault := noFault u
        memattrs := memAttrDefaults u (s.s1OffSpec u req.acctype)
        paddress := { physicaladdress := req.vaddress.setWidth 48, ns := !s.isSecure }
        vaddress := u.vaddress } }

/-- The size check of the flat map: `IsZero(vaddress<Top:PAMax()>)` (R146), at every `PAMax()`, 48 included
(R155 (d), against the words in brackets of R283 (a); DEDUCED, notes/assumptions/46.md). -/
def State.s1OffInRange (s : State) (vaddress : Word) : Bool :=
  isZeroSlice vaddress (s.addrTop vaddress) (PaSize.bits s.cfg.pamax)

/-- Stage 1 off (R135, R146): the flat map and the checks that follow it, with no permission check. -/
def State.stage1Off (s : State) (req : Request) : Result :=
  if !s.s1OffInRange req.vaddress then
    .next (s.finishFault .stage1
      (faultRecord .addressSize (s.unknown .s1Off).ipaddress 0 req.acctype req.iswrite false false))
  else
    let r := s.s1OffRecord req
    let s := s.record r
    s.afterStage1 req (s.stage1Checks req r (s.unknown .firstStage).ipaddress false)

/-- Stage 1 on (R134): set up the walk and go to its first descriptor. -/
def State.stage1On (s : State) (req : Request) : Result :=
  let ipaddress := (s.unknown .firstStage).ipaddress
  match s.openStage1 req.vaddress ipaddress with
  | .error k =>
    .next (s.finishFault .stage1 (faultRecord k ipaddress 0 req.acctype req.iswrite false false))
  | .ok w => s.enterStage1 req w

/-- `AArch64.FullTranslate` (R120, R121, R131): refused when the stage 1 regime uses AArch32. -/
def State.fullTranslate (s : State) (req : Request) : Result :=
  if s.elUsingAArch32 s.s1Regime then .refused .stage1RegimeAArch32
  else if s.s1Enabled then s.stage1On req
  else s.stage1Off req

/-- The virtual address as the unit is given it: an address from EL0 using AArch32 is zero-extended (R60,
R270; notes/assumptions/34.md). -/
def State.extendRequest (s : State) (req : Request) : Request :=
  if s.el == .el0 && s.el0Aarch32 then { req with vaddress := (req.vaddress.setWidth 32).setWidth 64 } else req

/-- With no call in progress: take the next request; with none waiting, nothing happens
(notes/assumptions/2.md). -/
def State.takeRequest (s : State) : Result :=
  match s.requests with
  | [] => .next s
  | req :: rest =>
    let s := { s with requests := rest }
    s.fullTranslate (s.extendRequest req)

/-! ### The descriptor that ends a walk -/

/-- The checks on a block or page descriptor that the walk reports, in their order (R218 to R220). -/
def State.leafFault (s : State) (w : Walk) (contiguous : Bool) (addr : BitVec 36) (af : Bool) : Option FaultKind :=
  if contiguousBitCheck w && contiguous && s.cfg.impdefContigFault then some .translation
  else if addressTooWide (addrField addr) w.outputsize then some .addressSize
  else if !af then some .accessFlag
  else none

/-- The permissions of a stage 1 block or page with the inherited table attributes (R224). -/
def stage1Perms (w : Walk) (f : LeafS1) : Permissions :=
  let readOnly := f.ap.getLsbD 1 || w.apTable.getLsbD 1
  let user := w.singlepriv || (f.ap.getLsbD 0 && !w.apTable.getLsbD 0)
  { ap := BitVec.ofBool readOnly ++ BitVec.ofBool user ++ 1#1
    xn := f.xn || w.xnTable
    pxn := !w.singlepriv && (f.pxn || w.pxnTable) }

/-- The stage 1 `nG` (R225). -/
def State.stage1NG (s : State) (w : Walk) (f : LeafS1) : Bool :=
  !w.singlepriv && (f.nG || (s.isSecure && w.nsTable))

/-- The record of a stage 1 walk that ends in `f` (R221 to R226, R228), its attributes not assigned yet. -/
def State.stage1Record (s : State) (w : Walk) (f : LeafS1) : TLBRecord :=
  let u := s.unknown .resultS1
  let bottom := addrselectbottom w.granule w.level
  { perms := stage1Perms w f
    nG := s.stage1NG w f
    domain := u.domain
    contiguous := f.contiguous
    level := w.level.val
    blocksize := 2 ^ bottom
    addrdesc :=
      { fault := noFault u
        memattrs := u.memattrs
        paddress := { physicaladdress := outputAddress f.addr w.inputaddr bottom, ns := f.ns || w.nsTable }
        vaddress := u.vaddress } }

/-- The record of a stage 2 walk that ends in `f` (R221 to R223, R227, R228). -/
def State.stage2Record (s : State) (req : Request) (w : Walk) (f : LeafS2) : TLBRecord :=
  let u := s.unknown .resultS2
  let bottom := addrselectbottom w.granule w.level
  { perms := { ap := f.s2ap ++ 1#1, xn := f.xn, pxn := false }
    nG := false
    domain := u.domain
    contiguous := f.contiguous
    level := w.level.val
    blocksize := 2 ^ bottom
    addrdesc :=
      { fault := noFault u
        memattrs := s.s2AttrDecode (s.unknown .s2Attr) f.sh f.memAttr req.acctype
        paddress := { physicaladdress := outputAddress f.addr w.inputaddr bottom, ns := true }
        vaddress := u.vaddress } }

end Sys2Proof.Machine
end

