-- ==== Sys2Proof/Machine/Descriptors.lean ====
section
/-! DEFINITION. The meanings of the descriptor rows of spec/opcode_table.json (rules R206 to R229 of
spec/43_table_walk.md), each one definition over the shared operations. -/

namespace Sys2Proof.Machine

/-! ### Shared operations -/

/-- Carry a descriptor out in the walk that waits for it, when the word's row fits the walk's context (R91,
R114; notes/assumptions/28.md). -/
def State.onDescriptor (s : State) (i : Instr) (k : Request → Walk → Target → Result) : Result :=
  match s.phase with
  | .walking req w target _ => if fitsContext (walkContext w target) i then k req w target else .refused .outsideRowContext
  | .attr _ _ _ _ _ => .refused .noDescriptorDue
  | .idle => .refused .noDescriptorDue

/-- A Translation fault at the current level (R210, R217). -/
def State.invalidDescriptor (s : State) (i : Instr) : Result :=
  s.onDescriptor i fun req w target => .next (s.finishFault target (walkFault .translation req w target))

/-- A table descriptor (R212 to R215): an Address size fault, or the next level with the table attributes
accumulated. -/
def State.tableDescriptor (s : State) (i : Instr) (a : BitVec 36) (ns apRo apPriv xn pxn : Bool) : Result :=
  s.onDescriptor i fun req w target =>
    if addressTooWide (addrField a) w.outputsize then
      .next (s.finishFault target (walkFault .addressSize req w target))
    else s.enterLevel req (descend w a ns apRo apPriv xn pxn) target

/-- A stage 1 block or page (R218 to R226): the walk ends, and the MAIR byte its AttrIndx selects is next. -/
def State.leafS1 (s : State) (i : Instr) (f : LeafS1) : Result :=
  s.onDescriptor i fun req w target =>
    match s.leafFault w f.contiguous f.addr f.af with
    | some k => .next (s.finishFault target (walkFault k req w target))
    | none => .next (s.goto (.attr req w.ipaddress (s.stage1Record w f) f.sh f.attrIndx))

/-- A stage 2 block or page (R218 to R223, R227): the walk ends, and the steps after it follow. -/
def State.leafS2 (s : State) (i : Instr) (f : LeafS2) : Result :=
  s.onDescriptor i fun req w target =>
    match s.leafFault w f.contiguous f.addr f.af with
    | some k => .next (s.finishFault target (walkFault k req w target))
    | none => s.afterStage2Walk req w target (s.stage2Record req w f)

/-! ### The rows -/

/-- DESC_INVALID (R92, R210): a Translation fault at the current level. -/
def execDescInvalid (s : State) : Result := s.invalidDescriptor .descInvalid

/-- DESC_RESERVED_L3 (R210): a Translation fault at level 3. -/
def execDescReservedL3 (s : State) : Result := s.invalidDescriptor .descReservedL3

/-- DESC_BLOCK_NOT_ALLOWED (R217): a Translation fault at the current level. -/
def execDescBlockNotAllowed (s : State) : Result := s.invalidDescriptor .descBlockNotAllowed

/-- DESC_TABLE_S1_EL10 (R93, R212 to R215). -/
def execDescTableS1El10 (t : TableS1El10) (s : State) : Result :=
  s.tableDescriptor (.descTableS1El10 t) t.addr t.ns t.apRo t.apPriv t.xn t.pxn

/-- DESC_TABLE_S1_EL2_EL3 (R212 to R215): bits [61] and [59] are ignored (R214). -/
def execDescTableS1El2El3 (t : TableS1El2El3) (s : State) : Result :=
  s.tableDescriptor (.descTableS1El2El3 t) t.addr t.ns t.apRo false t.xn false

/-- DESC_TABLE_S2 (R212, R213, R215): bits [63:59] are ignored (R214). -/
def execDescTableS2 (a : BitVec 36) (s : State) : Result :=
  s.tableDescriptor (.descTableS2 a) a false false false false false

/-- DESC_BLOCK_S1 (R94, R218 to R226). -/
def execDescBlockS1 (f : LeafS1) (s : State) : Result := s.leafS1 (.descBlockS1 f) f

/-- DESC_PAGE_S1 (R95, R218 to R226). -/
def execDescPageS1 (f : LeafS1) (s : State) : Result := s.leafS1 (.descPageS1 f) f

/-- DESC_BLOCK_S2 (R94, R218 to R223, R227). -/
def execDescBlockS2 (f : LeafS2) (s : State) : Result := s.leafS2 (.descBlockS2 f) f

/-- DESC_PAGE_S2 (R95, R218 to R223, R227). -/
def execDescPageS2 (f : LeafS2) (s : State) : Result := s.leafS2 (.descPageS2 f) f

end Sys2Proof.Machine
end

