-- ==== Sys2Proof/Machine/Mair.lean ====
section
/-! DEFINITION. The meanings of the MAIR attribute rows of spec/opcode_table.json: the byte a stage 1 block's
or page's AttrIndx selects gives the memory attributes (rules R245 to R249 of spec/44_support.md), then the
steps of `AArch64.FirstStageTranslate` and `AArch64.FullTranslate` after the walk follow (R136 to R139, R122). -/

namespace Sys2Proof.Machine

/-- Carry a MAIR field out in the stage 1 walk that waits for its attributes. The continuation gets the
descriptor's SH and the access type (R245). -/
def State.onAttribute (s : State) (spec : BitVec 2 → AccType → AttrSpec) : Result :=
  match s.phase with
  | .attr req ipaddress r sh _ =>
    let attrs := memAttrDefaults (s.unknown .s1Attr) (spec sh req.acctype)
    let r : TLBRecord := { r with addrdesc := { r.addrdesc with memattrs := attrs } }
    let s := s.record r
    s.afterStage1 req (s.stage1Checks req r ipaddress true)
  | .walking _ _ _ _ => .refused .noAttributeDue
  | .idle => .refused .noAttributeDue

/-- A reserved field: replaced by the implementation's allocated encoding, then decoded again (R247). -/
def State.reservedAttribute (s : State) : Result :=
  s.onAttribute fun sh acctype => s.reservedSpec (s.unknown .s1Attr) sh acctype

/-- MAIR_DEVICE_nGnRnE (R248). -/
def execMairDeviceNGnRnE (s : State) : Result := s.onAttribute fun _ _ => .device .nGnRnE

/-- MAIR_DEVICE_nGnRE (R248). -/
def execMairDeviceNGnRE (s : State) : Result := s.onAttribute fun _ _ => .device .nGnRE

/-- MAIR_DEVICE_nGRE (R248). -/
def execMairDeviceNGRE (s : State) : Result := s.onAttribute fun _ _ => .device .nGRE

/-- MAIR_DEVICE_GRE (R248). -/
def execMairDeviceGRE (s : State) : Result := s.onAttribute fun _ _ => .device .gre

/-- MAIR_RESERVED_DEVICE_01 (R247): bits [3:2] are not read. -/
def execMairReservedDevice01 (_d : BitVec 2) (s : State) : Result := s.reservedAttribute

/-- MAIR_RESERVED_DEVICE_10 (R247): bits [3:2] are not read. -/
def execMairReservedDevice10 (_d : BitVec 2) (s : State) : Result := s.reservedAttribute

/-- MAIR_RESERVED_DEVICE_11 (R247): bits [3:2] are not read. -/
def execMairReservedDevice11 (_d : BitVec 2) (s : State) : Result := s.reservedAttribute

/-- MAIR_RESERVED_NORMAL (R247); with an upper nibble of zero the term is no word of the row (R249). -/
def execMairReservedNormal (o : BitVec 4) (s : State) : Result :=
  if o = 0 then .refused .unreachable else s.reservedAttribute

/-- MAIR_NORMAL (R249); with a zero nibble the term is no word of the row. -/
def execMairNormal (o i : BitVec 4) (s : State) : Result :=
  if o = 0 || i = 0 then .refused .unreachable
  else s.onAttribute fun sh acctype => s.normalSpec o i sh acctype

end Sys2Proof.Machine
end

