-- ==== Sys2Proof/Machine/Dispatch.lean ====
section
/-! DEFINITION. The meaning of every row of spec/opcode_table.json. -/

namespace Sys2Proof.Machine

def exec (i : Instr) (s : State) : Host.Outcome State Fault Refusal :=
  match i with
  | .descInvalid => Sys2Proof.Machine.execDescInvalid s
  | .descReservedL3 => Sys2Proof.Machine.execDescReservedL3 s
  | .descBlockNotAllowed => Sys2Proof.Machine.execDescBlockNotAllowed s
  | .descTableS1El10 t => Sys2Proof.Machine.execDescTableS1El10 t s
  | .descTableS1El2El3 t => Sys2Proof.Machine.execDescTableS1El2El3 t s
  | .descTableS2 a => Sys2Proof.Machine.execDescTableS2 a s
  | .descBlockS1 f => Sys2Proof.Machine.execDescBlockS1 f s
  | .descPageS1 f => Sys2Proof.Machine.execDescPageS1 f s
  | .descBlockS2 f => Sys2Proof.Machine.execDescBlockS2 f s
  | .descPageS2 f => Sys2Proof.Machine.execDescPageS2 f s
  | .mairDeviceNGnRnE => Sys2Proof.Machine.execMairDeviceNGnRnE s
  | .mairDeviceNGnRE => Sys2Proof.Machine.execMairDeviceNGnRE s
  | .mairDeviceNGRE => Sys2Proof.Machine.execMairDeviceNGRE s
  | .mairDeviceGRE => Sys2Proof.Machine.execMairDeviceGRE s
  | .mairReservedDevice01 d => Sys2Proof.Machine.execMairReservedDevice01 d s
  | .mairReservedDevice10 d => Sys2Proof.Machine.execMairReservedDevice10 d s
  | .mairReservedDevice11 d => Sys2Proof.Machine.execMairReservedDevice11 d s
  | .mairReservedNormal o => Sys2Proof.Machine.execMairReservedNormal o s
  | .mairNormal o n => Sys2Proof.Machine.execMairNormal o n s

end Sys2Proof.Machine
end

