-- ==== Sys2Proof/Machine/Fetch.lean ====
section
/-! DEFINITION. Which word the call in progress decodes next, and how a word is placed there (rules R209 of
spec/43_table_walk.md, R246 of spec/44_support.md). -/

namespace Sys2Proof.Machine

/-- The word the next step decodes: none with no call in progress; the eight bytes at the walk's descriptor
address in the regime's byte order (R209); or the MAIR byte of the AttrIndx (R246). -/
def State.fetched (s : State) : Option (Except DecodeError Instr) :=
  match s.phase with
  | .idle => none
  | .walking _ w target d =>
    some (decode (.descriptor w.reversedescriptors (walkContext w target)) (s.fetchBytes d.paddress))
  | .attr _ _ _ _ index => some (decode .mair [s.mairByte index])

/-- The stage 1 regime's MAIR with its byte 0 replaced. -/
def State.setMairByte0 (s : State) (b : Byte) : State :=
  let put (v : Word) : Word := v.extractLsb' 8 56 ++ b
  match s.el with
  | .el0 => { s with regs := { s.regs with mairEl1 := put s.regs.mairEl1 } }
  | .el1 => { s with regs := { s.regs with mairEl1 := put s.regs.mairEl1 } }
  | .el2 => { s with regs := { s.regs with mairEl2 := put s.regs.mairEl2 } }
  | .el3 => { s with regs := { s.regs with mairEl3 := put s.regs.mairEl3 } }

/-- Where `placeWord` puts a descriptor. -/
def placeAddress : PAddr := 0x1000

/-- The request `placeWord` has in progress: an aligned data read of address 0. -/
def placeRequest : Request where
  vaddress := 0
  acctype := .normal
  iswrite := false
  wasaligned := true
  size := 8

/-- The stage 1 walk `placeWord` has in progress: it reads its descriptor in `tableContext`. -/
def placeWalk (ns : Bool) : Walk where
  ipaddress := 0
  inputaddr := 0
  granule := tableContext.granule
  inputsize := 48
  outputsize := .bits48
  level := tableContext.level
  baseaddress := placeAddress
  nsTable := ns
  apTable := 0
  xnTable := false
  pxnTable := false
  addrselecttop := 29
  reversedescriptors := false
  singlepriv := true
  memattrs :=
    { memtype := .normal, device := .nGnRnE, inner := ncHints, outer := ncHints, shareable := true, outershareable := true }

/-- The record `placeWord` has in progress: a page at level 3, everything permitted. -/
def placeRecord (ns : Bool) : TLBRecord where
  perms := { ap := 0b001, xn := false, pxn := false }
  nG := false
  domain := 0
  contiguous := false
  level := 3
  blocksize := 4096
  addrdesc :=
    { fault :=
        { kind := .none, ipaddress := 0, level := 0, acctype := .normal, write := false, secondstage := false,
          s2fs1walk := false }
      memattrs := (placeWalk ns).memattrs
      paddress := { physicaladdress := 0, ns := ns }
      vaddress := 0 }

/-- The state with the word of an opcode-table row placed where the next step decodes it: a MAIR field in
byte 0 of the regime's MAIR, selected by a stage 1 walk that has ended; a descriptor, stored little-endian,
at the address a stage 1 walk is about to read (notes/assumptions/2.md, 27.md). -/
def State.placeWord (s : State) (nbits w : Nat) : State :=
  let ns := !s.isSecure
  if nbits ≤ 8 then
    { s.setMairByte0 (BitVec.ofNat 8 w) with phase := .attr placeRequest 0 (placeRecord ns) 0 0 }
  else
    let bytes := bytesOfWord (BitVec.ofNat 64 w)
    let d : AddressDescriptor :=
      { fault := (placeRecord ns).addrdesc.fault
        memattrs := (placeWalk ns).memattrs
        paddress := descriptorAddress (placeWalk ns)
        vaddress := 0 }
    let s := { s with phase := .walking placeRequest (placeWalk ns) .stage1 d }
    if ns then { s with memNS := Memory.writeBytes s.memNS placeAddress.toNat bytes }
    else { s with memS := Memory.writeBytes s.memS placeAddress.toNat bytes }

end Sys2Proof.Machine
end

