-- ==== Sys2Proof/Machine/Step.lean ====
section
/-! DEFINITION. One step: take a request, or decode and carry out the word the call in progress reads next
(notes/assumptions/1.md). -/

namespace Sys2Proof.Machine

/-- One step of the unit. -/
def step (s : State) : Host.Outcome State Fault Refusal :=
  match s.fetched with
  | none => s.takeRequest
  | some (.ok i) => exec i s
  | some (.error _) => .refused .undecodable

/-- `s` with the word of an opcode-table row where `step` decodes its next word. -/
def State.withFetchWord (s : State) (nbits w : Nat) : State := s.placeWord nbits w

end Sys2Proof.Machine
end

