-- ==== Sys2Proof/Machine/RegisterFile.lean ====
section
/-! DEFINITION. The registers as 64-bit words, for connecting the unit to a register file: the bit positions
of rule R36 of spec/10_state.md (PRESUMED; notes/assumptions/20.md). No step uses this file. What a bit that R36
does not name does is a DESIGN CHOICE (notes/assumptions/20.md): in a register held as named fields it reads as 0
and a write of it is dropped; the base registers and the MAIRs are held whole (R31 to R34), so every bit of
theirs reads as last written, also [63:48] of TTBR0_EL2 and TTBR0_EL3 and [63:56] of VTTBR_EL2. -/

namespace Sys2Proof.Machine

/-- The registers of R36. -/
inductive SysReg where
  | sctlrEl1
  | sctlrEl2
  | sctlrEl3
  | hcrEl2
  | tcrEl1
  | tcrEl2
  | tcrEl3
  | vtcrEl2
  | ttbr0El1
  | ttbr1El1
  | ttbr0El2
  | ttbr0El3
  | vttbrEl2
  | mairEl1
  | mairEl2
  | mairEl3
  | scrEl3
  deriving DecidableEq, Repr

/-- The ranges of bits, each as its lowest bit and its length, that a register keeps: those R36 names, and every bit
of the base registers and the MAIRs (R31 to R34; notes/assumptions/20.md). -/
def SysReg.ranges : SysReg → List (Nat × Nat)
  | .sctlrEl1 | .sctlrEl2 | .sctlrEl3 => [(0, 1), (2, 1), (12, 1), (19, 1), (25, 1)]
  | .hcrEl2 => [(0, 1), (2, 1), (12, 1), (27, 1), (32, 1), (33, 1)]
  | .tcrEl1 =>
    [(0, 6), (7, 1), (8, 2), (10, 2), (12, 2), (14, 2), (16, 6), (22, 1), (23, 1), (24, 2), (26, 2), (28, 2), (30, 2),
     (32, 3), (36, 1), (37, 1), (38, 1)]
  | .tcrEl2 | .tcrEl3 => [(0, 6), (8, 2), (10, 2), (12, 2), (14, 2), (16, 3), (20, 1)]
  | .vtcrEl2 => [(0, 6), (6, 2), (8, 2), (10, 2), (12, 2), (14, 2), (16, 3)]
  | .ttbr0El1 | .ttbr1El1 | .ttbr0El2 | .ttbr0El3 | .vttbrEl2 | .mairEl1 | .mairEl2 | .mairEl3 => [(0, 64)]
  | .scrEl3 => [(0, 1), (9, 1)]

/-- Whether the register keeps bit `k` of a word written to it. -/
def SysReg.holdsBit (n : SysReg) (k : Nat) : Bool :=
  n.ranges.any fun f => decide (f.1 ≤ k) && decide (k < f.1 + f.2)

/-- `SCTLR_ELx`: M [0], C [2], I [12], WXN [19], EE [25]. -/
def sctlrWord (r : Sctlr) : Word :=
  0#38 ++ bit1 r.ee ++ 0#5 ++ bit1 r.wxn ++ 0#6 ++ bit1 r.i ++ 0#9 ++ bit1 r.c ++ 0#1 ++ bit1 r.m

/-- The fields of an `SCTLR_ELx` word. -/
def sctlrOfWord (v : Word) : Sctlr where
  m := v.getLsbD 0
  i := v.getLsbD 12
  ee := v.getLsbD 25
  c := v.getLsbD 2
  wxn := v.getLsbD 19

/-- `HCR_EL2`: VM [0], PTW [2], DC [12], TGE [27], CD [32], ID [33]. -/
def hcrWord (r : Hcr) : Word :=
  0#30 ++ bit1 r.idd ++ bit1 r.cd ++ 0#4 ++ bit1 r.tge ++ 0#14 ++ bit1 r.dc ++ 0#9 ++ bit1 r.ptw ++ 0#1 ++ bit1 r.vm

/-- The fields of an `HCR_EL2` word. -/
def hcrOfWord (v : Word) : Hcr where
  vm := v.getLsbD 0
  ptw := v.getLsbD 2
  dc := v.getLsbD 12
  tge := v.getLsbD 27
  cd := v.getLsbD 32
  idd := v.getLsbD 33

/-- `TCR_EL1`: T0SZ [5:0], EPD0 [7], IRGN0 [9:8], ORGN0 [11:10], SH0 [13:12], TG0 [15:14], T1SZ [21:16],
A1 [22], EPD1 [23], IRGN1 [25:24], ORGN1 [27:26], SH1 [29:28], TG1 [31:30], IPS [34:32], AS [36], TBI0 [37],
TBI1 [38]. -/
def tcrEl1Word (r : TcrEl1) : Word :=
  0#25 ++ bit1 r.tbi1 ++ bit1 r.tbi0 ++ bit1 r.asidSize ++ 0#1 ++ r.ips ++ r.tg1 ++ r.sh1 ++ r.orgn1 ++ r.irgn1
    ++ bit1 r.epd1 ++ bit1 r.asidSel ++ r.t1sz ++ r.tg0 ++ r.sh0 ++ r.orgn0 ++ r.irgn0 ++ bit1 r.epd0 ++ 0#1 ++ r.t0sz

/-- The fields of a `TCR_EL1` word. -/
def tcrEl1OfWord (v : Word) : TcrEl1 where
  t0sz := v.extractLsb' 0 6
  t1sz := v.extractLsb' 16 6
  tg0 := v.extractLsb' 14 2
  tg1 := v.extractLsb' 30 2
  epd0 := v.getLsbD 7
  epd1 := v.getLsbD 23
  sh0 := v.extractLsb' 12 2
  sh1 := v.extractLsb' 28 2
  orgn0 := v.extractLsb' 10 2
  orgn1 := v.extractLsb' 26 2
  irgn0 := v.extractLsb' 8 2
  irgn1 := v.extractLsb' 24 2
  ips := v.extractLsb' 32 3
  asidSel := v.getLsbD 22
  asidSize := v.getLsbD 36
  tbi0 := v.getLsbD 37
  tbi1 := v.getLsbD 38

/-- `TCR_EL2`, `TCR_EL3`: T0SZ [5:0], IRGN0 [9:8], ORGN0 [11:10], SH0 [13:12], TG0 [15:14], PS [18:16],
TBI [20]. -/
def tcrEl23Word (r : TcrEl23) : Word :=
  0#43 ++ bit1 r.tbi ++ 0#1 ++ r.ps ++ r.tg0 ++ r.sh0 ++ r.orgn0 ++ r.irgn0 ++ 0#2 ++ r.t0sz

/-- The fields of a `TCR_EL2` or `TCR_EL3` word. -/
def tcrEl23OfWord (v : Word) : TcrEl23 where
  t0sz := v.extractLsb' 0 6
  tg0 := v.extractLsb' 14 2
  ps := v.extractLsb' 16 3
  sh0 := v.extractLsb' 12 2
  orgn0 := v.extractLsb' 10 2
  irgn0 := v.extractLsb' 8 2
  tbi := v.getLsbD 20

/-- `VTCR_EL2`: T0SZ [5:0], SL0 [7:6], IRGN0 [9:8], ORGN0 [11:10], SH0 [13:12], TG0 [15:14], PS [18:16]. -/
def vtcrWord (r : Vtcr) : Word :=
  0#45 ++ r.ps ++ r.tg0 ++ r.sh0 ++ r.orgn0 ++ r.irgn0 ++ r.sl0 ++ r.t0sz

/-- The fields of a `VTCR_EL2` word. -/
def vtcrOfWord (v : Word) : Vtcr where
  t0sz := v.extractLsb' 0 6
  sl0 := v.extractLsb' 6 2
  tg0 := v.extractLsb' 14 2
  ps := v.extractLsb' 16 3
  sh0 := v.extractLsb' 12 2
  orgn0 := v.extractLsb' 10 2
  irgn0 := v.extractLsb' 8 2

/-- `SCR_EL3`: NS [0], SIF [9]. -/
def scrWord (r : Scr) : Word := 0#54 ++ bit1 r.sif ++ 0#8 ++ bit1 r.ns

/-- The fields of an `SCR_EL3` word. -/
def scrOfWord (v : Word) : Scr where
  ns := v.getLsbD 0
  sif := v.getLsbD 9

/-- A register read as a word. DESIGN CHOICE (notes/assumptions/20.md) for the bits R36 does not name: 0 where the
register is held as fields; as last written in the base registers. -/
def readRegister (r : Registers) : SysReg → Word
  | .sctlrEl1 => sctlrWord r.sctlrEl1
  | .sctlrEl2 => sctlrWord r.sctlrEl2
  | .sctlrEl3 => sctlrWord r.sctlrEl3
  | .hcrEl2 => hcrWord r.hcrEl2
  | .tcrEl1 => tcrEl1Word r.tcrEl1
  | .tcrEl2 => tcrEl23Word r.tcrEl2
  | .tcrEl3 => tcrEl23Word r.tcrEl3
  | .vtcrEl2 => vtcrWord r.vtcrEl2
  | .ttbr0El1 => r.ttbr0El1
  | .ttbr1El1 => r.ttbr1El1
  | .ttbr0El2 => r.ttbr0El2
  | .ttbr0El3 => r.ttbr0El3
  | .vttbrEl2 => r.vttbrEl2
  | .mairEl1 => r.mairEl1
  | .mairEl2 => r.mairEl2
  | .mairEl3 => r.mairEl3
  | .scrEl3 => scrWord r.scrEl3

/-- A word written to a register. DESIGN CHOICE (notes/assumptions/20.md) for the bits R36 does not name: dropped
where the register is held as fields; kept in the base registers, TTBR0_EL2 and TTBR0_EL3 [63:48] and VTTBR_EL2
[63:56] included. -/
def writeRegister (r : Registers) (n : SysReg) (v : Word) : Registers :=
  match n with
  | .sctlrEl1 => { r with sctlrEl1 := sctlrOfWord v }
  | .sctlrEl2 => { r with sctlrEl2 := sctlrOfWord v }
  | .sctlrEl3 => { r with sctlrEl3 := sctlrOfWord v }
  | .hcrEl2 => { r with hcrEl2 := hcrOfWord v }
  | .tcrEl1 => { r with tcrEl1 := tcrEl1OfWord v }
  | .tcrEl2 => { r with tcrEl2 := tcrEl23OfWord v }
  | .tcrEl3 => { r with tcrEl3 := tcrEl23OfWord v }
  | .vtcrEl2 => { r with vtcrEl2 := vtcrOfWord v }
  | .ttbr0El1 => { r with ttbr0El1 := v }
  | .ttbr1El1 => { r with ttbr1El1 := v }
  | .ttbr0El2 => { r with ttbr0El2 := v }
  | .ttbr0El3 => { r with ttbr0El3 := v }
  | .vttbrEl2 => { r with vttbrEl2 := v }
  | .mairEl1 => { r with mairEl1 := v }
  | .mairEl2 => { r with mairEl2 := v }
  | .mairEl3 => { r with mairEl3 := v }
  | .scrEl3 => { r with scrEl3 := scrOfWord v }

end Sys2Proof.Machine
end

