-- ==== Sys2Proof/Safety.lean ====
section
/-! DEFINITION. What the statements say of states: which states agree on everything the unit only reads, the
invariant every step keeps, and the bound on the work of a call. -/

namespace Sys2Proof.Machine

/-- `t` has the parameters, the execution context, the registers and every byte of both memories that `s` has
(R20, R70). -/
structure SameWorld (s t : State) : Prop where
  cfg : t.cfg = s.cfg
  el : t.el = s.el
  el0 : t.el0Aarch32 = s.el0Aarch32
  el1 : t.el1Aarch32 = s.el1Aarch32
  el2 : t.el2Aarch32 = s.el2Aarch32
  el3 : t.el3Aarch32 = s.el3Aarch32
  regs : t.regs = s.regs
  bytes : ∀ ns a, t.readByte ns a = s.readByte ns a
  memS : t.memS = s.memS
  memNS : t.memNS = s.memNS

/-- The low three bits of an address are zero: it is 8-byte aligned (R69). -/
def aligned8 (a : PAddr) : Bool := a.extractLsb' 0 3 == 0

/-- The locals of a walk are as a legal setup and its lookups leave them: the input size is legal, the index
slice is well formed (R200), the table base is 8-byte aligned (R69). -/
def walkOk (w : Walk) : Bool :=
  decide (25 ≤ w.inputsize) && decide (w.inputsize ≤ 48) && decide (w.addrselecttop < 48)
    && decide (addrselectbottom w.granule w.level ≤ w.addrselecttop) && aligned8 w.baseaddress

/-- A stage 2 walk belongs to the Non-secure EL1&0 regime with EL2 and stage 2 on, and stays in the
Non-secure space (R162, R163, R181, R227). -/
def State.stage2Ok (s : State) (w : Walk) (s1 : AddressDescriptor) : Bool :=
  s.twoStages && s.s2WalkAssert && s.s2Enabled && w.nsTable && !s1.isFault

/-- Whose walk it is fits the state. -/
def State.targetOk (s : State) (w : Walk) : Target → Bool
  | .stage1 => true
  | .access s1 => s.stage2Ok w s1
  | .table outer s1 =>
    s.stage2Ok w s1 && walkOk outer && outer.nsTable && aligned8 (w.inputaddr.setWidth 48)

/-- The call in progress is one that the machine can have got to. -/
def State.phaseOk (s : State) : Phase → Bool
  | .idle => true
  | .walking _ w target d =>
    walkOk w && s.targetOk w target && aligned8 d.paddress.physicaladdress && !d.isFault
      && (s.isSecure || (w.nsTable && d.paddress.ns))
  | .attr _ _ r _ _ => !r.addrdesc.isFault && (s.isSecure || r.addrdesc.paddress.ns)

/-- The invariant: both memories are canonical, and the call in progress is well formed. -/
def State.inv (s : State) : Bool := Memory.wf s.memS && Memory.wf s.memNS && s.phaseOk s.phase

/-- No Exception level that owns a translation regime uses AArch32 (R131, R181; D7). -/
def State.allAArch64 (s : State) : Bool := !s.el1Aarch32 && !s.el2Aarch32 && !s.el3Aarch32

/-- At most how many words (descriptors and MAIR bytes) the call in progress still decodes (R216, R315): each
stage 1 level left costs its descriptor and up to four stage 2 ones, then come the MAIR byte and up to four
stage 2 descriptors for the output address. -/
def wordsLeft : Phase → Nat
  | .idle => 0
  | .attr _ _ _ _ _ => 5
  | .walking _ w .stage1 _ => 6 + 5 * (3 - w.level.val)
  | .walking _ w (.access _) _ => 4 - w.level.val
  | .walking _ w (.table outer _) _ => (4 - w.level.val) + (6 + 5 * (3 - outer.level.val))

/-- An outcome with its next state changed. -/
def mapNext (f : State → State) : Result → Result
  | .next t => .next (f t)
  | .fault r => .fault r
  | .refused r => .refused r

/-- A run that is safe: the step answers a next state. -/
def Answers (r : Result) : Prop := ∃ t, r = .next t

/-! ### The rules' own arithmetic and outcomes, for the statements -/

/-- The number `desc<47:n>:v<n-1:0>` (R221): `a` is bits [47:12] of the descriptor. -/
def outputNat (a : BitVec 36) (v : Word) (n : Nat) : Nat := a.toNat * 4096 / 2 ^ n * 2 ^ n + v.toNat % 2 ^ n

/-- The number `v<top:bottom>` (R206). -/
def indexNat (v : Word) (top bottom : Nat) : Nat := v.toNat / 2 ^ bottom % 2 ^ (top + 1 - bottom)

/-- `baseaddress OR index` of a walk's lookup, the index scaled by 8 (R206). -/
def entryAddress (w : Walk) : PAddr :=
  w.baseaddress |||
    BitVec.ofNat 48 (8 * indexNat w.inputaddr w.addrselecttop (addrselectbottom w.granule w.level))

/-- The call goes on to read the descriptor of the walk `w`, at `entryAddress w` in the space `ns_table`, and
nothing else of `s` changes but the tick (R206 to R209). -/
def ReadsNext (s : State) (req : Request) (w : Walk) (target : Target) (res : Result) : Prop :=
  ∃ d : AddressDescriptor,
    res = .next { s with phase := .walking req w target d, tick := s.tick + 1 } ∧
      d.paddress = { physicaladdress := entryAddress w, ns := w.nsTable } ∧ d.memattrs = w.memattrs ∧
      d.vaddress = req.vaddress ∧ d.isFault = false

/-- The call returns a descriptor whose fault record is as `P` says, and nothing else of `s` changes but the
tick (R123, R229, R280). -/
def Ends (s : State) (res : Result) (P : FaultRecord → Prop) : Prop :=
  ∃ ad : AddressDescriptor, P ad.fault ∧
    res = .next { s with phase := .idle, results := s.results ++ [ad], tick := s.tick + 1 }

/-- The same after a successful walk, whose record becomes the latest. -/
def EndsRecorded (s : State) (res : Result) (P : FaultRecord → Prop) : Prop :=
  ∃ rec : TLBRecord, Ends { s with lastWalk := some rec } res P

/-- A walk's fault record: its kind, the walk's `ipaddress`, its current level, the access (R210, R287). -/
def levelFault (kind : FaultKind) (req : Request) (w : Walk) (target : Target) (f : FaultRecord) : Prop :=
  f = { kind := kind, ipaddress := w.ipaddress, level := w.level.val, acctype := req.acctype, write := req.iswrite,
        secondstage := target.secondstage, s2fs1walk := target.s2fs1walk }

/-- Stage 2 is asked to translate the address `pa` (R160 to R165): off, `whenOff` says what follows; on, its
walk is set up and goes to its first descriptor for the target, or a setup fault of level 0 ends the call. -/
def Stage2Takes (s : State) (req : Request) (pa : PAddr) (target : Target) (whenOff : Prop) (res : Result) : Prop :=
  (s.s2Enabled = false → whenOff) ∧
    (s.s2Enabled = true → s.el2Aarch32 = false →
      (∀ w2, s.openStage2 pa = .ok w2 → ReadsNext s req w2 target res) ∧
        ∀ k, s.openStage2 pa = .error k →
          Ends s res (fun f =>
            f = { kind := k, ipaddress := pa, level := 0, acctype := req.acctype, write := req.iswrite,
                  secondstage := true, s2fs1walk := target.s2fs1walk }))

/-- A stage 1 walk goes on to its next descriptor (R207): directly, or through stage 2 in the Non-secure EL1&0
regime with EL2. -/
def Stage1ReadsNext (s : State) (req : Request) (w : Walk) (res : Result) : Prop :=
  (s.twoStages = false → ReadsNext s req w .stage1 res) ∧
    (s.twoStages = true →
      ∃ s1 : AddressDescriptor, s1.isFault = false ∧
        s1.paddress = { physicaladdress := entryAddress w, ns := w.nsTable } ∧
        Stage2Takes s req (entryAddress w) (.table w s1) (ReadsNext s req w .stage1 res) res)

/-- Stage 1 has succeeded with the output address `p` and attributes as `P` says: the call returns them, or
stage 2 translates the address (R122, R139, R164). -/
def Stage1Succeeds (s : State) (req : Request) (p : FullAddress) (P : MemoryAttributes → Prop) (res : Result) :
    Prop :=
  ∃ (rec : TLBRecord) (ad : AddressDescriptor),
    let s' : State := { s with lastWalk := some rec }
    ad.isFault = false ∧ ad.paddress = p ∧ P ad.memattrs ∧
      (s.twoStages = false →
        res = .next { s' with results := s.results ++ [ad], phase := .idle, tick := s.tick + 1 }) ∧
      (s.twoStages = true →
        Stage2Takes s' req p.physicaladdress (.access ad)
          (res = .next { s' with results := s.results ++ [ad], phase := .idle, tick := s.tick + 1 }) res)

/-- The request with the address the unit translates: from EL0 using AArch32 it is zero-extended (R60, R270). -/
def effectiveRequest (s : State) (req : Request) : Request :=
  { req with
    vaddress :=
      if s.el = .el0 ∧ s.el0Aarch32 = true then BitVec.ofNat 64 (req.vaddress.toNat % 2 ^ 32) else req.vaddress }

/-- Device memory of a kind: Outer Shareable (R248, R250). -/
def DeviceAttrs (k : DeviceType) (m : MemoryAttributes) : Prop :=
  m.memtype = .device ∧ m.device = k ∧ m.shareable = true ∧ m.outershareable = true

/-- Normal memory with the given attributes on each side; Outer Shareable when Non-cacheable on both sides,
else as the SH bits say (R107, R249, R250). -/
def NormalAttrs (inner outer : MemAttrHints) (sh : BitVec 2) (m : MemoryAttributes) : Prop :=
  m.memtype = .normal ∧ m.inner = inner ∧ m.outer = outer ∧
    (inner.attrs = .nc ∧ outer.attrs = .nc → m.shareable = true ∧ m.outershareable = true) ∧
    (¬(inner.attrs = .nc ∧ outer.attrs = .nc) →
      m.shareable = sh.getLsbD 1 ∧ m.outershareable = decide (sh = 0b10))

/-- The contiguous range would exceed the input range (R218). -/
def contiguousMisprogrammed (w : Walk) : Prop :=
  (w.granule = .large ∧ w.level = 2 ∧ w.inputsize < 34) ∨ (w.granule = .mid ∧ w.level = 2 ∧ w.inputsize < 30) ∨
    (w.granule = .small ∧ w.level = 1 ∧ w.inputsize < 34)

/-- The fields of a block or page that the walk's checks read: contiguous, address, access flag (R218 to
R220). -/
def leafFields : Instr → Option (Bool × BitVec 36 × Bool)
  | .descInvalid => none
  | .descReservedL3 => none
  | .descBlockNotAllowed => none
  | .descTableS1El10 _ => none
  | .descTableS1El2El3 _ => none
  | .descTableS2 _ => none
  | .descBlockS1 f => some (f.contiguous, f.addr, f.af)
  | .descPageS1 f => some (f.contiguous, f.addr, f.af)
  | .descBlockS2 f => some (f.contiguous, f.addr, f.af)
  | .descPageS2 f => some (f.contiguous, f.addr, f.af)
  | .mairDeviceNGnRnE => none
  | .mairDeviceNGnRE => none
  | .mairDeviceNGRE => none
  | .mairDeviceGRE => none
  | .mairReservedDevice01 _ => none
  | .mairReservedDevice10 _ => none
  | .mairReservedDevice11 _ => none
  | .mairReservedNormal _ => none
  | .mairNormal _ _ => none

/-- No check of the walk stops at the block or page (R218 to R220). -/
def LeafPasses (s : State) (w : Walk) (contiguous : Bool) (addr : BitVec 36) (af : Bool) : Prop :=
  ¬(contiguousMisprogrammed w ∧ contiguous = true ∧ s.cfg.impdefContigFault = true) ∧
    addr.toNat * 4096 < 2 ^ PaSize.bits w.outputsize ∧ af = true

/-- A stage 2 memory attribute field that means Normal memory (R110). -/
def s2Normal (memAttr : BitVec 4) : Prop := memAttr.extractLsb' 2 2 ≠ 0 ∧ memAttr.extractLsb' 0 2 ≠ 0

/-- A stage 2 memory attribute field that means Device memory (R110). -/
def s2Device (memAttr : BitVec 4) : Prop := memAttr.extractLsb' 2 2 = 0

/-- The memory type that stage 2 gives by a block or page (R277): of a reserved encoding it is free. -/
def State.s2LeafType (s : State) (req : Request) (f : LeafS2) : MemType :=
  (s.s2AttrDecode (s.unknown .s2Attr) f.sh f.memAttr req.acctype).memtype

/-- The suspended stage 1 walk `outer` reads its descriptor at the output address of the stage 2 block or page
`f`, in the Non-secure space (R170, R207, R208, R221, R227). -/
def ResumesStage1 (s : State) (req : Request) (w outer : Walk) (f : LeafS2) (res : Result) : Prop :=
  ∃ (rec : TLBRecord) (d : AddressDescriptor),
    res = .next { s with lastWalk := some rec, phase := .walking req outer .stage1 d, tick := s.tick + 1 } ∧
      d.isFault = false ∧ d.paddress.ns = true ∧ d.vaddress = req.vaddress ∧
      d.paddress.physicaladdress.toNat = outputNat f.addr w.inputaddr (addrselectbottom w.granule w.level) ∧
      rec.addrdesc.paddress = d.paddress ∧ rec.perms = { ap := f.s2ap ++ 1#1, xn := f.xn, pxn := false }

/-- Whether bit `k` of a descriptor with the low bits `low` takes part in the result (R92, R102, R214, R224,
R225, R227). -/
def bitRead (c : DescContext) (low : BitVec 2) (k : Nat) : Bool :=
  if k = 0 then true
  else if !low.getLsbD 0 then false
  else if k = 1 then true
  else if low == 0b11 && c.level != 3 then
    (decide (grainsize c.granule ≤ k) && decide (k ≤ 47)) || (c.stage == .s1El10 && decide (59 ≤ k))
      || (c.stage == .s1El2El3 && (k == 63 || k == 62 || k == 60))
  else if low == 0b01 && (c.level == 3 || decide (c.level.val < firstblocklevel c.granule)) then false
  else
    (decide (addrselectbottom c.granule c.level ≤ k) && decide (k ≤ 47)) || k == 54 || k == 52 || k == 10
      || (decide (2 ≤ k) && decide (k ≤ 9) && (k != 6 || c.stage != .s1El2El3))
      || ((k == 53 || k == 11) && c.stage == .s1El10)

/-- The starting level of a legal stage 2 configuration, by the table of R198. -/
def s2StartLevel (g : Granule) (sl0 : BitVec 2) (checked pamax : Nat) : Option Level :=
  match g, sl0.toNat with
  | .small, 0 => if 25 ≤ checked ∧ checked ≤ 34 then some 2 else none
  | .small, 1 => if 31 ≤ checked ∧ checked ≤ 43 then some 1 else none
  | .small, 2 => if 40 ≤ checked ∧ checked ≤ 48 ∧ 42 < pamax then some 0 else none
  | .mid, 0 => if 25 ≤ checked ∧ checked ≤ 29 then some 3 else none
  | .mid, 1 => if 26 ≤ checked ∧ checked ≤ 40 then some 2 else none
  | .mid, 2 => if 37 ≤ checked ∧ checked ≤ 48 ∧ 40 < pamax then some 1 else none
  | .large, 0 => if 25 ≤ checked ∧ checked ≤ 33 then some 3 else none
  | .large, 1 => if 30 ≤ checked ∧ checked ≤ 46 then some 2 else none
  | .large, 2 => if 43 ≤ checked ∧ checked ≤ 48 ∧ 42 < pamax then some 1 else none
  | _, _ => none

end Sys2Proof.Machine
end

