-- ==== Sys2Proof/Certificates/Slice0/Obligations.lean ====
section
/-! DEFINITION. The statements for the provers (OBLIGATIONS.json lists them). A statement marked DERIVED rests
on an inference of the spec, on a definition the spec marks as general knowledge, or on a choice of the model;
it names the log entry. -/

open Sys2Proof Sys2Proof.Machine

/-! ### Encoding -/

/-- Decoding an encoded descriptor gives it back, in either byte order, in every context its row allows
(R91, R114; section 2 of spec/30_encoding.md). -/
def Obligations.DecodeEncodeDescriptors : Prop :=
  ∀ (reversed : Bool) (c : DescContext) (i : Instr), i.isMair = false → fitsContext c i = true →
    decode (.descriptor reversed c) (encode reversed i) = .ok i

/-- The 256 MAIR bytes and the well-formed MAIR terms correspond one to one (R109, R247 to R249). -/
def Obligations.MairBytesAndTermsCorrespond : Prop :=
  (∀ (reversed : Bool) (b : Byte), (decodeMair b).wf = true ∧ (decodeMair b).isMair = true ∧
      encode reversed (decodeMair b) = [b]) ∧
    ∀ (reversed : Bool) (i : Instr), i.isMair = true → i.wf = true → decode .mair (encode reversed i) = .ok i

/-- Every 64-bit word is a descriptor that fits the context it is read in, and is well formed (R91). -/
def Obligations.DecodedDescriptorFitsContext : Prop :=
  ∀ (c : DescContext) (v : Word), fitsContext c (decodeDescriptor c v) = true ∧ (decodeDescriptor c v).wf = true ∧
    (decodeDescriptor c v).isMair = false

/-- R91: bits [1:0] and the level decide the kind, at either stage; the fields stand at the bits of R93 and
R95. -/
def Obligations.DescriptorKindByLowBitsAndLevel : Prop :=
  ∀ (c : DescContext) (v : Word),
    (v.getLsbD 0 = false → decodeDescriptor c v = .descInvalid) ∧
    (v.extractLsb' 0 2 = 0b01 →
      (c.level = 3 → decodeDescriptor c v = .descReservedL3) ∧
      (c.level ≠ 3 → c.level.val < firstblocklevel c.granule → decodeDescriptor c v = .descBlockNotAllowed) ∧
      (c.level ≠ 3 → firstblocklevel c.granule ≤ c.level.val →
        (c.stage ≠ .s2 → decodeDescriptor c v = .descBlockS1
          { xn := v.getLsbD 54, pxn := v.getLsbD 53, contiguous := v.getLsbD 52, addr := v.extractLsb' 12 36,
            nG := v.getLsbD 11, af := v.getLsbD 10, sh := v.extractLsb' 8 2, ap := v.extractLsb' 6 2,
            ns := v.getLsbD 5, attrIndx := v.extractLsb' 2 3 }) ∧
        (c.stage = .s2 → decodeDescriptor c v = .descBlockS2
          { xn := v.getLsbD 54, pxn := v.getLsbD 53, contiguous := v.getLsbD 52, addr := v.extractLsb' 12 36,
            nG := v.getLsbD 11, af := v.getLsbD 10, sh := v.extractLsb' 8 2, s2ap := v.extractLsb' 6 2,
            memAttr := v.extractLsb' 2 4 }))) ∧
    (v.extractLsb' 0 2 = 0b11 →
      (c.level = 3 →
        (c.stage ≠ .s2 → decodeDescriptor c v = .descPageS1
          { xn := v.getLsbD 54, pxn := v.getLsbD 53, contiguous := v.getLsbD 52, addr := v.extractLsb' 12 36,
            nG := v.getLsbD 11, af := v.getLsbD 10, sh := v.extractLsb' 8 2, ap := v.extractLsb' 6 2,
            ns := v.getLsbD 5, attrIndx := v.extractLsb' 2 3 }) ∧
        (c.stage = .s2 → decodeDescriptor c v = .descPageS2
          { xn := v.getLsbD 54, pxn := v.getLsbD 53, contiguous := v.getLsbD 52, addr := v.extractLsb' 12 36,
            nG := v.getLsbD 11, af := v.getLsbD 10, sh := v.extractLsb' 8 2, s2ap := v.extractLsb' 6 2,
            memAttr := v.extractLsb' 2 4 })) ∧
      (c.level ≠ 3 →
        (c.stage = .s1El10 → decodeDescriptor c v = .descTableS1El10
          { ns := v.getLsbD 63, apRo := v.getLsbD 62, apPriv := v.getLsbD 61, xn := v.getLsbD 60,
            pxn := v.getLsbD 59, addr := v.extractLsb' 12 36 }) ∧
        (c.stage = .s1El2El3 → decodeDescriptor c v = .descTableS1El2El3
          { ns := v.getLsbD 63, apRo := v.getLsbD 62, xn := v.getLsbD 60, addr := v.extractLsb' 12 36 }) ∧
        (c.stage = .s2 → decodeDescriptor c v = .descTableS2 (v.extractLsb' 12 36))))

/-- Two words that agree on the bits the walk reads have the same effect (R92, R102, R214, R224, R225, R227):
the other bits can hold anything. -/
def Obligations.UnreadDescriptorBitsHaveNoEffect : Prop :=
  ∀ (s : State) (req : Request) (w : Walk) (target : Target) (d : AddressDescriptor) (v v' : Word),
    s.phase = .walking req w target d →
    (∀ k, k < 64 → bitRead (walkContext w target) (v.extractLsb' 0 2) k = true → v.getLsbD k = v'.getLsbD k) →
    exec (decodeDescriptor (walkContext w target) v) s = exec (decodeDescriptor (walkContext w target) v') s

/-- DERIVED (R66, R68; notes/assumptions/22.md): the byte reversal, and that a big-endian descriptor is the
little-endian one with its bytes in the other order. -/
def Obligations.BigEndianDescriptorsReadReversed : Prop :=
  (∀ (v : Word) (i : Nat), i < 8 → (bigEndianReverse v).extractLsb' (8 * i) 8 = v.extractLsb' (8 * (7 - i)) 8) ∧
  (∀ v : Word, wordOfBytes (bytesOfWord v) = some v ∧ wordOfBytes (bytesOfWord v).reverse = some (bigEndianReverse v)) ∧
    ∀ (c : DescContext) (bs : List Byte), decode (.descriptor true c) bs = decode (.descriptor false c) bs.reverse

/-- A few words written out from the encodings of R93, R95 and R109 decode to what they stand for. -/
def Obligations.WrittenWordsDecode : Prop :=
  decodeDescriptor ⟨2, .s1El10, .small⟩ 0x8000000000403003 =
      .descTableS1El10 { ns := true, apRo := false, apPriv := false, xn := false, pxn := false, addr := 0x403 } ∧
    decodeDescriptor ⟨3, .s1El10, .small⟩ 0x0060000012345F47 =
      .descPageS1 { xn := true, pxn := true, contiguous := false, addr := 0x12345, nG := true, af := true,
                    sh := 0b11, ap := 0b01, ns := false, attrIndx := 0b001 } ∧
    decodeDescriptor ⟨2, .s2, .small⟩ 0x00000000C000077D =
      .descBlockS2 { xn := false, pxn := false, contiguous := false, addr := 0xC0000, nG := false, af := true,
                     sh := 0b11, s2ap := 0b01, memAttr := 0b1111 } ∧
    decodeMair 0x04 = .mairDeviceNGnRE ∧ decodeMair 0x4F = .mairNormal 0b0100 0b1111 ∧
    decodeMair 0x40 = .mairReservedNormal 0b0100 ∧ decodeMair 0x0E = .mairReservedDevice10 0b11

/-- DERIVED (R36, general knowledge; notes/assumptions/20.md): where the fields of a register word stand; that a
register reads as the word last written, at the bits R36 names and at every bit of a register held whole, and as 0
elsewhere; that a register read and written again is unchanged, and a write of one leaves every other as it was. -/
def Obligations.RegisterWordsRoundTrip : Prop :=
  (∀ (r : Registers) (n : SysReg), writeRegister r n (readRegister r n) = r) ∧
  (∀ (r : Registers) (n m : SysReg) (v : Word), m ≠ n → readRegister (writeRegister r n v) m = readRegister r m) ∧
  (∀ (r : Registers) (n : SysReg) (v : Word) (k : Nat), k < 64 →
    (readRegister (writeRegister r n v) n).getLsbD k = (n.holdsBit k && v.getLsbD k)) ∧
  ∀ (r : Registers) (v : Word),
    let sctlr : Sctlr :=
      { m := v.getLsbD 0, c := v.getLsbD 2, i := v.getLsbD 12, wxn := v.getLsbD 19, ee := v.getLsbD 25 }
    let tcr : TcrEl23 :=
      { t0sz := v.extractLsb' 0 6, irgn0 := v.extractLsb' 8 2, orgn0 := v.extractLsb' 10 2, sh0 := v.extractLsb' 12 2,
        tg0 := v.extractLsb' 14 2, ps := v.extractLsb' 16 3, tbi := v.getLsbD 20 }
    writeRegister r .sctlrEl1 v = { r with sctlrEl1 := sctlr } ∧
    writeRegister r .sctlrEl2 v = { r with sctlrEl2 := sctlr } ∧
    writeRegister r .sctlrEl3 v = { r with sctlrEl3 := sctlr } ∧
    writeRegister r .hcrEl2 v = { r with hcrEl2 :=
      { vm := v.getLsbD 0, ptw := v.getLsbD 2, dc := v.getLsbD 12, tge := v.getLsbD 27, cd := v.getLsbD 32,
        idd := v.getLsbD 33 } } ∧
    writeRegister r .tcrEl1 v = { r with tcrEl1 :=
      { t0sz := v.extractLsb' 0 6, epd0 := v.getLsbD 7, irgn0 := v.extractLsb' 8 2, orgn0 := v.extractLsb' 10 2,
        sh0 := v.extractLsb' 12 2, tg0 := v.extractLsb' 14 2, t1sz := v.extractLsb' 16 6, asidSel := v.getLsbD 22,
        epd1 := v.getLsbD 23, irgn1 := v.extractLsb' 24 2, orgn1 := v.extractLsb' 26 2, sh1 := v.extractLsb' 28 2,
        tg1 := v.extractLsb' 30 2, ips := v.extractLsb' 32 3, asidSize := v.getLsbD 36, tbi0 := v.getLsbD 37,
        tbi1 := v.getLsbD 38 } } ∧
    writeRegister r .tcrEl2 v = { r with tcrEl2 := tcr } ∧ writeRegister r .tcrEl3 v = { r with tcrEl3 := tcr } ∧
    writeRegister r .vtcrEl2 v = { r with vtcrEl2 :=
      { t0sz := v.extractLsb' 0 6, sl0 := v.extractLsb' 6 2, irgn0 := v.extractLsb' 8 2, orgn0 := v.extractLsb' 10 2,
        sh0 := v.extractLsb' 12 2, tg0 := v.extractLsb' 14 2, ps := v.extractLsb' 16 3 } } ∧
    writeRegister r .ttbr0El1 v = { r with ttbr0El1 := v } ∧ writeRegister r .ttbr1El1 v = { r with ttbr1El1 := v } ∧
    writeRegister r .ttbr0El2 v = { r with ttbr0El2 := v } ∧ writeRegister r .ttbr0El3 v = { r with ttbr0El3 := v } ∧
    writeRegister r .vttbrEl2 v = { r with vttbrEl2 := v } ∧ writeRegister r .mairEl1 v = { r with mairEl1 := v } ∧
    writeRegister r .mairEl2 v = { r with mairEl2 := v } ∧ writeRegister r .mairEl3 v = { r with mairEl3 := v } ∧
    writeRegister r .scrEl3 v = { r with scrEl3 := { ns := v.getLsbD 0, sif := v.getLsbD 9 } }

/-! ### The step -/

/-- DERIVED (notes/assumptions/1.md: one step for one word is the model's cut of the call; 19.md: the regime's
MAIR; 22.md: the byte order): when the bytes that the call in progress reads next decode to `i`, the step is
`exec i`: the eight bytes at the walk's descriptor address in its space (R209), or the byte `AttrIndx` selects
of the regime's MAIR (R246). -/
def Obligations.StepRunsDecodedInstruction : Prop :=
  ∀ (s : State) (i : Instr),
    (∀ req w target d, s.phase = .walking req w target d →
      decode (.descriptor w.reversedescriptors (walkContext w target))
        ((List.range 8).map fun k => s.readByte d.paddress.ns
          (d.paddress.physicaladdress + BitVec.ofNat 48 k).toNat) = .ok i →
      step s = exec i s) ∧
    (∀ req ip r sh (index : BitVec 3), s.phase = .attr req ip r sh index →
      decodeMair (BitVec.ofNat 8 (s.mair.toNat / 2 ^ (8 * index.toNat))) = i → step s = exec i s)

/-- While a call is in progress there is always a next word and it decodes to a well-formed instruction. -/
def Obligations.EveryFetchedWordDecodes : Prop :=
  ∀ s : State, s.phase ≠ .idle → ∃ i : Instr, s.fetched = some (.ok i) ∧ i.wf = true

/-- DERIVED (notes/assumptions/2.md, 27.md): `withFetchWord` places the word where the next step decodes it,
and changes no parameter, no execution context (PSTATE.EL and which levels use AArch32), no request and no
result. -/
def Obligations.PlacedWordIsDecodedNext : Prop :=
  ∀ (s : State) (nbits v : Nat), Memory.wf s.memS = true → Memory.wf s.memNS = true →
    (nbits ≤ 8 → (s.withFetchWord nbits v).fetched = some (.ok (decodeMair (BitVec.ofNat 8 v)))) ∧
    (8 < nbits →
      (s.withFetchWord nbits v).fetched = some (.ok (decodeDescriptor tableContext (BitVec.ofNat 64 v)))) ∧
    (s.withFetchWord nbits v).cfg = s.cfg ∧ (s.withFetchWord nbits v).el = s.el ∧
    (s.withFetchWord nbits v).el0Aarch32 = s.el0Aarch32 ∧ (s.withFetchWord nbits v).el1Aarch32 = s.el1Aarch32 ∧
    (s.withFetchWord nbits v).el2Aarch32 = s.el2Aarch32 ∧ (s.withFetchWord nbits v).el3Aarch32 = s.el3Aarch32 ∧
    (s.withFetchWord nbits v).requests = s.requests ∧ (s.withFetchWord nbits v).results = s.results

/-- DERIVED (notes/assumptions/2.md): with no call in progress and no request waiting a step changes
nothing. -/
def Obligations.IdleUnitWaits : Prop :=
  ∀ s : State, s.phase = .idle → s.requests = [] → step s = .next s

/-- The section's functions write no register, no PSTATE and no memory (R20). -/
def Obligations.StepWritesNoRegisterAndNoMemory : Prop :=
  ∀ s t : State, step s = .next t → SameWorld s t

/-- DERIVED (R69, R74, R200, R227): every step keeps the invariant `State.inv`: the memories canonical, the
walk's numbers legal, its descriptor address 8-byte aligned, a stage 2 walk only in the Non-secure EL1&0 regime,
and outside Secure state only the Non-secure space in use. -/
def Obligations.EveryStepKeepsTheInvariant : Prop :=
  ∀ s t : State, s.inv = true → step s = .next t → t.inv = true

/-- DERIVED (R50, R310 give no reset state; notes/assumptions/2.md, 3.md, 4.md): the reset state, which is the
model's choice, meets the invariant. -/
def Obligations.ResetMeetsTheInvariant : Prop := State.reset.inv = true

/-- DERIVED (notes/assumptions/4.md: the spec states no reset value, R50, R310): what the model's reset state
holds. -/
def Obligations.ResetStateHasNoCallAndEmptyMemory : Prop :=
  State.reset.phase = .idle ∧ State.reset.requests = [] ∧ State.reset.results = [] ∧ State.reset.el = .el3 ∧
    State.reset.regs.sctlrEl3.m = false ∧ ∀ ns a, State.reset.readByte ns a = 0

/-- DERIVED (D7, D9): where no translation regime uses AArch32, no step is refused: every request and every
word completes. -/
def Obligations.NoStepIsRefusedInAArch64 : Prop :=
  ∀ s : State, s.inv = true → s.allAArch64 = true → Answers (step s)

/-- Outside Secure state the Secure physical memory has no influence (R62: Non-secure regimes and stage 2
always use the Non-secure space). -/
def Obligations.NonSecureStepsIgnoreSecureMemory : Prop :=
  ∀ (s : State) (m : Memory), s.inv = true → s.isSecure = false →
    step { s with memS := m } = mapNext (fun t => { t with memS := m }) (step s)

/-- DERIVED (R216, R315): each word of a call brings it nearer to its end, and a call that a request starts has
at most 25 words to decode: 24 descriptors and one MAIR byte. -/
def Obligations.EachStepLowersTheWordsLeft : Prop :=
  ∀ s t : State, step s = .next t →
    (s.phase ≠ .idle → wordsLeft t.phase < wordsLeft s.phase) ∧ (s.phase = .idle → wordsLeft t.phase ≤ 25)

/-- DERIVED (R123, R315): a call in progress returns exactly one result within the bound, and takes no further
request meanwhile. -/
def Obligations.EveryCallReturnsOneResult : Prop :=
  ∀ s : State, s.inv = true → s.allAArch64 = true → s.phase ≠ .idle →
    ∃ (k : Nat) (t : State) (ad : AddressDescriptor), k ≤ wordsLeft s.phase ∧
      Host.Core.run Sys2Proof.core k s = .next t ∧ t.phase = .idle ∧ t.results = s.results ++ [ad] ∧
      t.requests = s.requests

/-! ### Setting up -/

/-- R190, and the values of `addrselectbottom` in the table of R206, for every granule. -/
def Obligations.GranuleConstants : Prop :=
  (∀ g, stride g = grainsize g - 3) ∧
    grainsize .large = 16 ∧ firstblocklevel .large = 2 ∧ grainsize .mid = 14 ∧ firstblocklevel .mid = 2 ∧
    grainsize .small = 12 ∧ firstblocklevel .small = 1 ∧
    [addrselectbottom .small 0, addrselectbottom .small 1, addrselectbottom .small 2, addrselectbottom .small 3]
      = [39, 30, 21, 12] ∧
    [addrselectbottom .mid 0, addrselectbottom .mid 1, addrselectbottom .mid 2, addrselectbottom .mid 3]
      = [47, 36, 25, 14] ∧
    [addrselectbottom .large 1, addrselectbottom .large 2, addrselectbottom .large 3] = [42, 29, 16]

/-- R132: when stage 1 is enabled. R163: when stage 2 is. -/
def Obligations.StageOneEnableConditions : Prop :=
  ∀ s : State,
    (s.cfg.haveEl2 = true ∧ s.isSecure = false ∧ (s.el = .el0 ∨ s.el = .el1) →
      (s.s1Enabled = true ↔
        s.regs.hcrEl2.tge = false ∧ s.regs.hcrEl2.dc = false ∧ s.regs.sctlrEl1.m = true)) ∧
    (¬(s.cfg.haveEl2 = true ∧ s.isSecure = false ∧ (s.el = .el0 ∨ s.el = .el1)) →
      (s.el = .el3 → s.s1Enabled = s.regs.sctlrEl3.m) ∧ (s.el = .el2 → s.s1Enabled = s.regs.sctlrEl2.m) ∧
      (s.el = .el0 ∨ s.el = .el1 → s.s1Enabled = s.regs.sctlrEl1.m)) ∧
    (s.s2Enabled = true ↔ s.regs.hcrEl2.vm = true ∨ s.regs.hcrEl2.dc = true)

/-- DERIVED (`AddrTop` follows R271, notes/assumptions/10.md; `SCTLR[]` and `MAIR[]`, of R25 and R34, are those of
notes/assumptions/19.md): which registers a stage 1 walk is set up from (R183, R184), which control register and
which MAIR are the regime's, and where the top address bit is. -/
def Obligations.RegimeSelectsItsRegisters : Prop :=
  ∀ (s : State) (va : Word),
    let p := s.paramsStage1 va
    (s.el = .el3 → s.sctlr = s.regs.sctlrEl3 ∧ s.mair = s.regs.mairEl3 ∧
      s.addrTop va = if s.regs.tcrEl3.tbi = true then 55 else 63) ∧
    (s.el = .el2 → s.sctlr = s.regs.sctlrEl2 ∧ s.mair = s.regs.mairEl2 ∧
      s.addrTop va = if s.regs.tcrEl2.tbi = true then 55 else 63) ∧
    (s.el = .el0 ∨ s.el = .el1 → s.sctlr = s.regs.sctlrEl1 ∧ s.mair = s.regs.mairEl1 ∧
      (va.getLsbD 55 = true → s.addrTop va = if s.regs.tcrEl1.tbi1 = true then 55 else 63) ∧
      (va.getLsbD 55 = false → s.addrTop va = if s.regs.tcrEl1.tbi0 = true then 55 else 63)) ∧
    (s.el = .el3 → p.tsz = s.regs.tcrEl3.t0sz ∧ p.granule = tg0Granule s.regs.tcrEl3.tg0 ∧ p.upper = false ∧
      p.ps = s.regs.tcrEl3.ps ∧ p.disabled = false ∧ p.baseregister = s.regs.ttbr0El3 ∧
      p.sh = s.regs.tcrEl3.sh0 ∧ p.orgn = s.regs.tcrEl3.orgn0 ∧ p.irgn = s.regs.tcrEl3.irgn0 ∧
      p.reversedescriptors = s.regs.sctlrEl3.ee ∧ p.lookupsecure = true ∧ p.singlepriv = true) ∧
    (s.el = .el2 → p.tsz = s.regs.tcrEl2.t0sz ∧ p.granule = tg0Granule s.regs.tcrEl2.tg0 ∧ p.upper = false ∧
      p.ps = s.regs.tcrEl2.ps ∧ p.disabled = false ∧ p.baseregister = s.regs.ttbr0El2 ∧
      p.sh = s.regs.tcrEl2.sh0 ∧ p.orgn = s.regs.tcrEl2.orgn0 ∧ p.irgn = s.regs.tcrEl2.irgn0 ∧
      p.reversedescriptors = s.regs.sctlrEl2.ee ∧ p.lookupsecure = false ∧ p.singlepriv = true) ∧
    (s.el = .el0 ∨ s.el = .el1 →
      p.ps = s.regs.tcrEl1.ips ∧ p.reversedescriptors = s.regs.sctlrEl1.ee ∧ p.lookupsecure = s.isSecure ∧
      p.singlepriv = false ∧
      (va.getLsbD (s.addrTop va) = false → p.tsz = s.regs.tcrEl1.t0sz ∧ p.granule = tg0Granule s.regs.tcrEl1.tg0 ∧
        p.upper = false ∧ p.disabled = s.regs.tcrEl1.epd0 ∧ p.baseregister = s.regs.ttbr0El1 ∧
        p.sh = s.regs.tcrEl1.sh0 ∧ p.orgn = s.regs.tcrEl1.orgn0 ∧ p.irgn = s.regs.tcrEl1.irgn0) ∧
      (va.getLsbD (s.addrTop va) = true → p.tsz = s.regs.tcrEl1.t1sz ∧ p.granule = tg1Granule s.regs.tcrEl1.tg1 ∧
        p.upper = true ∧ p.disabled = s.regs.tcrEl1.epd1 ∧ p.baseregister = s.regs.ttbr1El1 ∧
        p.sh = s.regs.tcrEl1.sh1 ∧ p.orgn = s.regs.tcrEl1.orgn1 ∧ p.irgn = s.regs.tcrEl1.irgn1))

/-- R103, R104, R186 and R201: the control field encodings. -/
def Obligations.ControlFieldEncodings : Prop :=
  tg0Granule 0b00 = .small ∧ tg0Granule 0b01 = .large ∧ tg0Granule 0b10 = .mid ∧ tg0Granule 0b11 = .small ∧
    tg1Granule 0b00 = .small ∧ tg1Granule 0b01 = .mid ∧ tg1Granule 0b10 = .small ∧ tg1Granule 0b11 = .large ∧
    [(0b000 : BitVec 3), 0b001, 0b010, 0b011, 0b100, 0b101, 0b110, 0b111].map (fun ps => PaSize.bits (psSize ps))
      = [32, 36, 40, 42, 44, 48, 48, 48] ∧
    ∀ (ps : BitVec 3) (pamax : PaSize),
      PaSize.bits (PaSize.limit (psSize ps) pamax) = min (PaSize.bits (psSize ps)) (PaSize.bits pamax)

/-- R185: the input size limits, for either choice and for a choice made afresh; both stages start from
`64 - UInt(TxSZ)`, and a size that stays out of range ends the setup with a Translation fault. -/
def Obligations.InputSizeLimits : Prop :=
  (∀ (s : State) (va : Word) (ip : PAddr),
    let n := limitInputSize s.cfg (s.unknown .walkS1) (64 - (s.paramsStage1 va).tsz.toNat)
    (∀ w, s.openStage1 va ip = .ok w → w.inputsize = n) ∧
      (¬(25 ≤ n ∧ n ≤ 48) → s.openStage1 va ip = .error .translation)) ∧
  (∀ (s : State) (ipa : PAddr),
    let n := limitInputSize s.cfg (s.unknown .walkS2) (64 - s.regs.vtcrEl2.t0sz.toNat)
    (∀ w, s.openStage2 ipa = .ok w → n ≤ PaSize.bits s.cfg.pamax → w.inputsize = n) ∧
      (¬(25 ≤ n ∧ n ≤ 48) → s.openStage2 ipa = .error .translation)) ∧
  ∀ (cfg : Implementation) (u : Unknown) (n : Nat),
    (25 ≤ n → n ≤ 48 → limitInputSize cfg u n = n) ∧
    (48 < n → (cfg.cuTszMax = .fixed .force → limitInputSize cfg u n = 48) ∧
      (cfg.cuTszMax = .fixed .fault → limitInputSize cfg u n = n) ∧
      (limitInputSize cfg u n = 48 ∨ limitInputSize cfg u n = n)) ∧
    (n < 25 → (cfg.cuTszMin = .fixed .force → limitInputSize cfg u n = 25) ∧
      (cfg.cuTszMin = .fixed .fault → limitInputSize cfg u n = n) ∧
      (limitInputSize cfg u n = 25 ∨ limitInputSize cfg u n = n))

/-- R197: the stage 2 input size against the implemented address size, with the sizes used and checked. -/
def Obligations.StageTwoSizeAgainstImplementedSize : Prop :=
  ∀ (s : State) (u : Unknown) (n : Nat),
    let pa := PaSize.bits s.cfg.pamax
    (¬(pa < n ∧ (s.el1Aarch32 = false ∨ 40 < n)) → s.stage2Size u n = (n, n, true)) ∧
    (pa < n ∧ (s.el1Aarch32 = false ∨ 40 < n) →
      (s.cfg.cuS2InputsizePamax = .fixed .force → s.stage2Size u n = (pa, pa, true)) ∧
      (s.cfg.cuS2InputsizePamax = .fixed .forceNoSlCheck → s.stage2Size u n = (pa, n, true)) ∧
      (s.cfg.cuS2InputsizePamax = .fixed .fault → (s.stage2Size u n).2.2 = false) ∧
      (s.stage2Size u n = (pa, pa, true) ∨ s.stage2Size u n = (pa, n, true) ∨ (s.stage2Size u n).2.2 = false))

/-- R187 with R188, R192, R199 to R205 (section B and D of spec/43_table_walk.md): exactly when a stage 1 walk
opens, and with what. The range check reads the address bits up to `top` only; the starting level is the one
whose index slice has between 1 and `stride` bits. -/
def Obligations.StageOneWalkSetup : Prop :=
  ∀ (s : State) (va : Word) (ip : PAddr),
    let p := s.paramsStage1 va
    let n := limitInputSize s.cfg (s.unknown .walkS1) (64 - p.tsz.toNat)
    let span := 2 ^ (s.addrTop va + 1)
    let found := 25 ≤ n ∧ n ≤ 48 ∧
      if p.upper = true then span - 2 ^ n ≤ va.toNat % span else va.toNat % span < 2 ^ n
    let out := PaSize.limit (psSize p.ps) s.cfg.pamax
    let base := p.baseregister.toNat % 2 ^ 48
    (¬found ∨ p.disabled = true → s.openStage1 va ip = .error .translation) ∧
    (found → p.disabled = false → 2 ^ PaSize.bits out ≤ base → s.openStage1 va ip = .error .addressSize) ∧
    (found → p.disabled = false → base < 2 ^ PaSize.bits out →
      ∃ l : Level, addrselectbottom p.granule l < n ∧ n ≤ addrselectbottom p.granule l + stride p.granule ∧
        let lower := 3 + n - addrselectbottom p.granule l
        s.openStage1 va ip = .ok
          { ipaddress := ip, inputaddr := va, granule := p.granule, inputsize := n, outputsize := out, level := l,
            baseaddress := BitVec.ofNat 48 (base / 2 ^ lower * 2 ^ lower), nsTable := !p.lookupsecure, apTable := 0,
            xnTable := false, pxnTable := false, addrselecttop := n - 1,
            reversedescriptors := p.reversedescriptors, singlepriv := p.singlepriv,
            memattrs := s.walkAttrDecode (s.unknown .walkS1) p.sh p.orgn p.irgn })

/-- DERIVED (R193 to R205; the table of R198 is the spec's inference): exactly when a stage 2 walk opens, and
with what. -/
def Obligations.StageTwoWalkSetup : Prop :=
  ∀ (s : State) (ipa : PAddr),
    let v := s.regs.vtcrEl2
    let g := tg0Granule v.tg0
    let n := limitInputSize s.cfg (s.unknown .walkS2) (64 - v.t0sz.toNat)
    let size := s.stage2Size (s.unknown .walkS2) n
    let found := 25 ≤ n ∧ n ≤ 48 ∧ ipa.toNat < 2 ^ n ∧ size.2.2 = true
    let start := s2StartLevel g v.sl0 size.2.1 (PaSize.bits s.cfg.pamax)
    let out := PaSize.limit (psSize v.ps) s.cfg.pamax
    let base := s.regs.vttbrEl2.toNat % 2 ^ 48
    (¬found ∨ start = none → s.openStage2 ipa = .error .translation) ∧
    ∀ l : Level, found → start = some l →
      (2 ^ PaSize.bits out ≤ base → s.openStage2 ipa = .error .addressSize) ∧
      (base < 2 ^ PaSize.bits out →
        addrselectbottom g l < size.1 ∧
        let lower := 3 + size.1 - addrselectbottom g l
        s.openStage2 ipa = .ok
          { ipaddress := ipa, inputaddr := ipa.setWidth 64, granule := g, inputsize := size.1, outputsize := out,
            level := l, baseaddress := BitVec.ofNat 48 (base / 2 ^ lower * 2 ^ lower), nsTable := true, apTable := 0,
            xnTable := false, pxnTable := false, addrselecttop := size.1 - 1,
            reversedescriptors := s.regs.sctlrEl2.ee, singlepriv := true,
            memattrs := s.walkAttrDecode (s.unknown .walkS2) v.sh0 v.orgn0 v.irgn0 })

/-- R206: the descriptor address is `baseaddress OR index` in the space `ns_table`; the index is below the table
size and the base is aligned to it, so OR is addition: at the first lookup of either stage and after every table
descriptor. -/
def Obligations.DescriptorAddressIsBasePlusIndex : Prop :=
  (∀ (g : Granule) (l : Level), addrselectbottom g l = (3 - l.val) * stride g + grainsize g) ∧
  (∀ w : Walk, descriptorAddress w = { physicaladdress := entryAddress w, ns := w.nsTable }) ∧
  (∀ w : Walk,
    ((∃ (s : State) (va : Word) (ip : PAddr), s.openStage1 va ip = .ok w) ∨
      (∃ (s : State) (ipa : PAddr), s.openStage2 ipa = .ok w) ∨
      (∃ (w0 : Walk) (a : BitVec 36) (ns ro pv xn pxn : Bool), w0.level ≠ 3 ∧ w = descend w0 a ns ro pv xn pxn)) →
    (entryAddress w).toNat =
      w.baseaddress.toNat +
        8 * indexNat w.inputaddr w.addrselecttop (addrselectbottom w.granule w.level))

/-! ### Taking a request -/

/-- DERIVED (D7, D9: notes/assumptions/26.md for the refusals; R24: notes/assumptions/19.md for the level that
controls stage 1): a call whose stage 1 regime uses AArch32 has no meaning (R131) and is refused; and with EL2 using
AArch32 so is every stage 2 walk (R181): where a request, a stage 1 table or a MAIR byte would start one, and where
one would end (R260). -/
def Obligations.AArch32RegimeIsRefused : Prop :=
  (∀ (s : State) (req : Request) (rest : List Request), s.phase = .idle → s.requests = req :: rest →
    ((s.el = .el0 ∨ s.el = .el1) ∧ s.el1Aarch32 = true ∨ s.el = .el2 ∧ s.el2Aarch32 = true ∨
      s.el = .el3 ∧ s.el3Aarch32 = true) →
    step s = .refused .stage1RegimeAArch32) ∧
  ∀ s : State, s.twoStages = true → s.s2Enabled = true → s.el2Aarch32 = true →
    (∀ (req : Request) (rest : List Request), s.phase = .idle → s.requests = req :: rest → s.el1Aarch32 = false →
      let q := effectiveRequest s req
      (s.s1Enabled = true → (∃ (ip : PAddr) (w : Walk), s.openStage1 q.vaddress ip = .ok w) →
        step s = .refused .stage2AArch32) ∧
      (s.s1Enabled = false →
        q.vaddress.toNat % 2 ^ (s.addrTop q.vaddress + 1) < 2 ^ PaSize.bits s.cfg.pamax →
        s.regs.hcrEl2.dc = true ∨ req.acctype = .ifetch ∨ req.wasaligned = true →
        step s = .refused .stage2AArch32)) ∧
    (∀ (req : Request) (w : Walk) (d : AddressDescriptor), s.phase = .walking req w .stage1 d → w.level ≠ 3 →
      (∀ t : TableS1El10, w.singlepriv = false → t.addr.toNat * 4096 < 2 ^ PaSize.bits w.outputsize →
        exec (.descTableS1El10 t) s = .refused .stage2AArch32) ∧
      (∀ t : TableS1El2El3, w.singlepriv = true → t.addr.toNat * 4096 < 2 ^ PaSize.bits w.outputsize →
        exec (.descTableS1El2El3 t) s = .refused .stage2AArch32)) ∧
    (∀ (req : Request) (ip : PAddr) (r : TLBRecord) (sh : BitVec 2) (index : BitVec 3) (i : Instr),
      s.phase = .attr req ip r sh index → r.addrdesc.isFault = false → i.isMair = true → i.wf = true →
      s.s1Fails r.perms r.addrdesc.paddress.ns req.acctype req.iswrite = false →
      (∃ o n, i = .mairNormal o n) ∨ (req.wasaligned = true ∧ req.acctype ≠ .ifetch) →
      exec i s = .refused .stage2AArch32) ∧
    (∀ (req : Request) (w : Walk) (target : Target) (d : AddressDescriptor) (f : LeafS2) (i : Instr),
      s.phase = .walking req w target d → target.secondstage = true → i = .descBlockS2 f ∨ i = .descPageS2 f →
      fitsContext (walkContext w target) i = true → LeafPasses s w f.contiguous f.addr f.af →
      exec i s = .refused .stage2AArch32)

/-- R134, R199, R202 and R207 (spec/41_stage1.md section A, spec/43_table_walk.md section D and E): with stage 1
on, a request is taken and its walk goes to its first descriptor, or a setup fault of level 0 ends the call.
DERIVED: an address from EL0 using AArch32 is zero-extended first (notes/assumptions/34.md). -/
def Obligations.RequestStartsStageOneWalk : Prop :=
  ∀ (s : State) (req : Request) (rest : List Request), s.phase = .idle → s.requests = req :: rest →
    s.elUsingAArch32 s.s1Regime = false → s.s1Enabled = true →
    let s' : State := { s with requests := rest }
    let q := effectiveRequest s req
    ∃ ip : PAddr,
      (∀ k, s.openStage1 q.vaddress ip = .error k →
        Ends s' (step s) (fun f =>
          f = { kind := k, ipaddress := ip, level := 0, acctype := req.acctype, write := req.iswrite,
                secondstage := false, s2fs1walk := false })) ∧
      ∀ w, s.openStage1 q.vaddress ip = .ok w → Stage1ReadsNext s' q w (step s)

/-- R146 (spec/41_stage1.md section B; DERIVED at `PAMax() = 48`, where R146 and R155 (d) are followed against the
words in brackets of R283 (a), notes/assumptions/46.md): with stage 1 off an address with a bit set between `PAMax()`
and `Top` is an Address size fault of level 0, stage 1. -/
def Obligations.FlatMapRejectsOversizeAddress : Prop :=
  ∀ (s : State) (req : Request) (rest : List Request), s.phase = .idle → s.requests = req :: rest →
    s.elUsingAArch32 s.s1Regime = false → s.s1Enabled = false →
    let q := effectiveRequest s req
    2 ^ PaSize.bits s.cfg.pamax ≤ q.vaddress.toNat % 2 ^ (s.addrTop q.vaddress + 1) →
    Ends { s with requests := rest } (step s) (fun f =>
      f.kind = .addressSize ∧ f.level = 0 ∧ f.acctype = req.acctype ∧ f.write = req.iswrite ∧
        f.secondstage = false ∧ f.s2fs1walk = false)

/-- R147 to R151 and R154 (spec/41_stage1.md section B; DERIVED from R250 in the attributes): with stage 1 off an
accepted address is its own output address in the space of the security state, with no permission check. -/
def Obligations.FlatMapReturnsTheAddress : Prop :=
  ∀ (s : State) (req : Request) (rest : List Request), s.phase = .idle → s.requests = req :: rest →
    s.elUsingAArch32 s.s1Regime = false → s.s1Enabled = false →
    let q := effectiveRequest s req
    q.vaddress.toNat % 2 ^ (s.addrTop q.vaddress + 1) < 2 ^ PaSize.bits s.cfg.pamax →
    let dc := s.twoStages = true ∧ s.regs.hcrEl2.dc = true
    (¬dc ∧ req.acctype ≠ .ifetch → req.wasaligned = true) →
    Stage1Succeeds { s with requests := rest } q
      { physicaladdress := BitVec.ofNat 48 q.vaddress.toNat, ns := !s.isSecure }
      (fun m =>
        (dc → m.memtype = .normal ∧ m.inner.attrs = .wb ∧ m.inner.hints = .rwa ∧ m.outer = m.inner ∧
          m.shareable = false ∧ m.outershareable = false) ∧
        (¬dc → req.acctype ≠ .ifetch → DeviceAttrs .nGnRnE m) ∧
        (¬dc → req.acctype = .ifetch → m.memtype = .normal ∧ m.outer = m.inner ∧ m.shareable = true ∧
          m.outershareable = true ∧
          (s.sctlr.i = true → m.inner.attrs = .wt ∧ m.inner.hints = .ra) ∧
          (s.sctlr.i = false → m.inner.attrs = .nc ∧ m.inner.hints = .no)))
      (step s)

/-- R136, R149: with stage 1 off and no default-cacheable override, a misaligned data access is a stage 1
Alignment fault. -/
def Obligations.FlatMapMisalignedDataFaults : Prop :=
  ∀ (s : State) (req : Request) (rest : List Request), s.phase = .idle → s.requests = req :: rest →
    s.elUsingAArch32 s.s1Regime = false → s.s1Enabled = false →
    let q := effectiveRequest s req
    q.vaddress.toNat % 2 ^ (s.addrTop q.vaddress + 1) < 2 ^ PaSize.bits s.cfg.pamax →
    ¬(s.twoStages = true ∧ s.regs.hcrEl2.dc = true) → req.acctype ≠ .ifetch → req.wasaligned = false →
    EndsRecorded { s with requests := rest } (step s) (fun f =>
      f.kind = .alignment ∧ f.acctype = req.acctype ∧ f.write = req.iswrite ∧ f.secondstage = false)

/-! ### The descriptor rows -/

/-- R92 and R210: an invalid descriptor, and '01' at level 3, end the walk with a Translation fault at the
current level. -/
def Obligations.InvalidDescriptorsFault : Prop :=
  ∀ (s : State) (req : Request) (w : Walk) (target : Target) (d : AddressDescriptor),
    s.phase = .walking req w target d →
    (∀ v : Word, v.getLsbD 0 = false ∨ (v.extractLsb' 0 2 = 0b01 ∧ w.level = 3) →
      Ends s (exec (decodeDescriptor (walkContext w target) v) s) (levelFault .translation req w target)) ∧
    Ends s (exec .descInvalid s) (levelFault .translation req w target) ∧
    (w.level = 3 → Ends s (exec .descReservedL3 s) (levelFault .translation req w target))

/-- R217: a block below the first level that allows one ends the walk with a Translation fault. -/
def Obligations.BlockNotAllowedFaults : Prop :=
  ∀ (s : State) (req : Request) (w : Walk) (target : Target) (d : AddressDescriptor),
    s.phase = .walking req w target d → w.level.val < firstblocklevel w.granule →
    (∀ v : Word, v.extractLsb' 0 2 = 0b01 →
      Ends s (exec (decodeDescriptor (walkContext w target) v) s) (levelFault .translation req w target)) ∧
    Ends s (exec .descBlockNotAllowed s) (levelFault .translation req w target)

/-- R212: a table descriptor whose address does not fit the output size, in each of the three table rows. -/
def Obligations.TableAddressTooWideFaults : Prop :=
  ∀ (s : State) (req : Request) (w : Walk) (target : Target) (d : AddressDescriptor),
    s.phase = .walking req w target d → w.level ≠ 3 →
    (∀ v : Word, v.extractLsb' 0 2 = 0b11 → 2 ^ PaSize.bits w.outputsize ≤ v.toNat % 2 ^ 48 →
      Ends s (exec (decodeDescriptor (walkContext w target) v) s) (levelFault .addressSize req w target)) ∧
    (∀ t : TableS1El10, target = .stage1 → w.singlepriv = false →
      2 ^ PaSize.bits w.outputsize ≤ t.addr.toNat * 4096 →
      Ends s (exec (.descTableS1El10 t) s) (levelFault .addressSize req w target)) ∧
    (∀ t : TableS1El2El3, target = .stage1 → w.singlepriv = true →
      2 ^ PaSize.bits w.outputsize ≤ t.addr.toNat * 4096 →
      Ends s (exec (.descTableS1El2El3 t) s) (levelFault .addressSize req w target)) ∧
    (∀ a : BitVec 36, target.secondstage = true → 2 ^ PaSize.bits w.outputsize ≤ a.toNat * 4096 →
      Ends s (exec (.descTableS2 a) s) (levelFault .addressSize req w target))

/-- R213 to R215 for DESC_TABLE_S1_EL10: the next table, the hierarchical attributes accumulated, the next
level; then the next descriptor is read, through stage 2 where that applies (R207). -/
def Obligations.TableS1El10GoesToNextLevel : Prop :=
  ∀ (s : State) (req : Request) (w : Walk) (d : AddressDescriptor) (t : TableS1El10),
    s.phase = .walking req w .stage1 d → w.level ≠ 3 → w.singlepriv = false →
    t.addr.toNat * 4096 < 2 ^ PaSize.bits w.outputsize →
    Stage1ReadsNext s req
      { w with
        baseaddress := BitVec.ofNat 48 (t.addr.toNat * 4096 / 2 ^ grainsize w.granule * 2 ^ grainsize w.granule)
        nsTable := w.nsTable || t.ns
        apTable := w.apTable ||| (BitVec.ofBool t.apRo ++ BitVec.ofBool t.apPriv)
        xnTable := w.xnTable || t.xn
        pxnTable := w.pxnTable || t.pxn
        level := w.level + 1
        addrselecttop := addrselectbottom w.granule w.level - 1 }
      (exec (.descTableS1El10 t) s)

/-- R213 to R215 for DESC_TABLE_S1_EL2_EL3: as in the EL1&0 regime, but `ap_table[0]` and `pxn_table` stay as
they are. -/
def Obligations.TableS1El2El3GoesToNextLevel : Prop :=
  ∀ (s : State) (req : Request) (w : Walk) (d : AddressDescriptor) (t : TableS1El2El3),
    s.phase = .walking req w .stage1 d → w.level ≠ 3 → w.singlepriv = true →
    t.addr.toNat * 4096 < 2 ^ PaSize.bits w.outputsize →
    Stage1ReadsNext s req
      { w with
        baseaddress := BitVec.ofNat 48 (t.addr.toNat * 4096 / 2 ^ grainsize w.granule * 2 ^ grainsize w.granule)
        nsTable := w.nsTable || t.ns
        apTable := w.apTable ||| (BitVec.ofBool t.apRo ++ 0#1)
        xnTable := w.xnTable || t.xn
        level := w.level + 1
        addrselecttop := addrselectbottom w.granule w.level - 1 }
      (exec (.descTableS1El2El3 t) s)

/-- R213 to R215 for DESC_TABLE_S2: the next table and the next level; no hierarchical attribute changes, and
the next descriptor is read at its own address. -/
def Obligations.TableS2GoesToNextLevel : Prop :=
  ∀ (s : State) (req : Request) (w : Walk) (target : Target) (d : AddressDescriptor) (a : BitVec 36),
    s.phase = .walking req w target d → w.level ≠ 3 → target.secondstage = true →
    a.toNat * 4096 < 2 ^ PaSize.bits w.outputsize →
    ReadsNext s req
      { w with
        baseaddress := BitVec.ofNat 48 (a.toNat * 4096 / 2 ^ grainsize w.granule * 2 ^ grainsize w.granule)
        level := w.level + 1
        addrselecttop := addrselectbottom w.granule w.level - 1 }
      target (exec (.descTableS2 a) s)

/-- R214: over a stage 1 table descriptor the hierarchical attributes can only become more restrictive, and
nothing at stage 2 changes them: a stage 2 walk keeps its own and its target, and the suspended stage 1 walk
comes back as it was. -/
def Obligations.TableAttributesOnlyBecomeStricter : Prop :=
  (∀ (s t : State) (req req' : Request) (w w' : Walk) (d d' : AddressDescriptor),
    s.phase = .walking req w .stage1 d → step s = .next t →
    (t.phase = .walking req' w' .stage1 d' ∨ ∃ w2 s1, t.phase = .walking req' w2 (.table w' s1) d') →
    (w.nsTable = true → w'.nsTable = true) ∧ (w.xnTable = true → w'.xnTable = true) ∧
    (w.pxnTable = true → w'.pxnTable = true) ∧ (w.apTable &&& w'.apTable = w.apTable) ∧ req' = req ∧
    w'.level.val = w.level.val + 1) ∧
  ∀ (s t : State) (req req' : Request) (w w' : Walk) (target target' : Target) (d d' : AddressDescriptor),
    s.phase = .walking req w target d → target.secondstage = true → step s = .next t →
    t.phase = .walking req' w' target' d' →
    req' = req ∧
      ((target' = target ∧ w'.nsTable = w.nsTable ∧ w'.apTable = w.apTable ∧ w'.xnTable = w.xnTable ∧
          w'.pxnTable = w.pxnTable ∧ w'.level.val = w.level.val + 1) ∨
        (target' = .stage1 ∧ ∃ s1, target = .table w' s1))

/-- R218, R219, R220, in this order, for the four block and page rows. -/
def Obligations.LeafChecksInOrder : Prop :=
  ∀ (s : State) (req : Request) (w : Walk) (target : Target) (d : AddressDescriptor) (i : Instr)
    (contiguous : Bool) (addr : BitVec 36) (af : Bool),
    s.phase = .walking req w target d → fitsContext (walkContext w target) i = true →
    leafFields i = some (contiguous, addr, af) →
    let bad := contiguousMisprogrammed w ∧ contiguous = true ∧ s.cfg.impdefContigFault = true
    (bad → Ends s (exec i s) (levelFault .translation req w target)) ∧
    (¬bad → 2 ^ PaSize.bits w.outputsize ≤ addr.toNat * 4096 →
      Ends s (exec i s) (levelFault .addressSize req w target)) ∧
    (¬bad → addr.toNat * 4096 < 2 ^ PaSize.bits w.outputsize → af = false →
      Ends s (exec i s) (levelFault .accessFlag req w target))

/-- R221, R222, R224, R225 with the level, block size and space of R223 and R226: what a stage 1 block or page
leaves, on its way to its memory attributes. -/
def Obligations.StageOneLeafGivesItsRecord : Prop :=
  ∀ (s : State) (req : Request) (w : Walk) (d : AddressDescriptor) (f : LeafS1) (i : Instr),
    s.phase = .walking req w .stage1 d → i = .descBlockS1 f ∨ i = .descPageS1 f →
    fitsContext (walkContext w .stage1) i = true → LeafPasses s w f.contiguous f.addr f.af →
    ∃ r : TLBRecord,
      exec i s = .next { s with phase := .attr req w.ipaddress r f.sh f.attrIndx, tick := s.tick + 1 } ∧
      r.addrdesc.isFault = false ∧
      r.addrdesc.paddress.physicaladdress.toNat = outputNat f.addr w.inputaddr (addrselectbottom w.granule w.level) ∧
      r.addrdesc.paddress.ns = (f.ns || w.nsTable) ∧
      r.level = w.level.val ∧ r.blocksize = 2 ^ addrselectbottom w.granule w.level ∧ r.contiguous = f.contiguous ∧
      r.perms.xn = (f.xn || w.xnTable) ∧ r.perms.ap.getLsbD 0 = true ∧
      r.perms.ap.getLsbD 2 = (f.ap.getLsbD 1 || w.apTable.getLsbD 1) ∧
      (w.singlepriv = false → r.perms.ap.getLsbD 1 = (f.ap.getLsbD 0 && !w.apTable.getLsbD 0) ∧
        r.perms.pxn = (f.pxn || w.pxnTable) ∧
        r.nG = if s.isSecure = true then f.nG || w.nsTable else f.nG) ∧
      (w.singlepriv = true → r.perms.ap.getLsbD 1 = true ∧ r.perms.pxn = false ∧ r.nG = false)

/-- R170, R221, R227 (spec/42_stage2.md section B): a stage 2 block or page for the access itself: when stage 2
permits the access, the call returns the stage 2 address in the Non-secure space; a fetch that stage 2 maps to
Device memory is `Obligations.StageTwoAccessFaults`. DERIVED: the memory type follows R277 and R275
(notes/assumptions/13.md, 15.md). -/
def Obligations.StageTwoLeafReturnsTheAddress : Prop :=
  ∀ (s : State) (req : Request) (w : Walk) (s1 d : AddressDescriptor) (f : LeafS2) (i : Instr),
    s.phase = .walking req w (.access s1) d → i = .descBlockS2 f ∨ i = .descPageS2 f →
    fitsContext (walkContext w (.access s1)) i = true → LeafPasses s w f.contiguous f.addr f.af →
    s.s2WalkAssert = true → s1.isFault = false →
    (s.s2LeafType req f = .normal ∨ (req.wasaligned = true ∧ req.acctype ≠ .ifetch)) →
    (req.acctype = .ifetch → f.xn = false) →
    (req.acctype ≠ .ifetch → f.s2ap.getLsbD (if req.iswrite then 1 else 0) = true) →
    ∃ (rec : TLBRecord) (ad : AddressDescriptor),
      exec i s = .next { s with lastWalk := some rec, results := s.results ++ [ad], phase := .idle,
                                tick := s.tick + 1 } ∧
      ad.isFault = false ∧ ad.paddress.ns = true ∧
      ad.paddress.physicaladdress.toNat = outputNat f.addr w.inputaddr (addrselectbottom w.granule w.level) ∧
      rec.addrdesc.paddress = ad.paddress ∧ rec.level = w.level.val ∧ rec.contiguous = f.contiguous ∧
      rec.perms = { ap := f.s2ap ++ 1#1, xn := f.xn, pxn := false } ∧ rec.nG = false ∧
      rec.addrdesc.memattrs = s.s2AttrDecode (s.unknown .s2Attr) f.sh f.memAttr req.acctype ∧
      (s.s2LeafType req f = .device ∨ s1.memattrs.memtype = .device → ad.memattrs.memtype = .device) ∧
      (s.s2LeafType req f = .normal → s1.memattrs.memtype = .normal → ad.memattrs.memtype = .normal)

/-- R161, R170, R207, R208, R221, R227 (spec/43_table_walk.md section E): a stage 2 block or page for a stage 1
descriptor address: when stage 2 permits a read there, the suspended stage 1 walk reads its descriptor at the
stage 2 address in the Non-secure space. Device memory under `HCR_EL2.PTW`, and Device memory for a fetch, are
`Obligations.StageTwoWalkFaults`. -/
def Obligations.StageTwoLeafResumesStageOne : Prop :=
  ∀ (s : State) (req : Request) (w outer : Walk) (s1 d : AddressDescriptor) (f : LeafS2) (i : Instr),
    s.phase = .walking req w (.table outer s1) d → i = .descBlockS2 f ∨ i = .descPageS2 f →
    fitsContext (walkContext w (.table outer s1)) i = true → LeafPasses s w f.contiguous f.addr f.af →
    s.s2WalkAssert = true → s1.isFault = false → f.s2ap.getLsbD 0 = true →
    (s.s2LeafType req f = .normal ∨ (s.regs.hcrEl2.ptw = false ∧ req.acctype ≠ .ifetch)) →
    ResumesStage1 s req w outer f (exec i s)

/-- R261 to R263 and R265: what `AArch64.CheckS2Permission` answers, for each access; the `write` of a fetch's
fault is not stated (R264). -/
def Obligations.StageTwoPermissionCheck : Prop :=
  ∀ (u : Unknown) (p : Permissions) (ip : PAddr) (level : Int) (acctype : AccType) (iswrite s2fs1walk : Bool),
    let f := checkS2Permission u p ip level acctype iswrite s2fs1walk
    let fails :=
      if acctype = .ifetch ∧ s2fs1walk = false then p.xn = true
      else if iswrite = true ∧ s2fs1walk = false then p.ap.getLsbD 2 = false
      else p.ap.getLsbD 1 = false
    (¬fails → f.kind = .none) ∧
    (fails → f.kind = .permission ∧ f.ipaddress = ip ∧ f.level = level ∧ f.acctype = acctype ∧
      f.secondstage = true ∧ f.s2fs1walk = s2fs1walk ∧
      (¬(acctype = .ifetch ∧ s2fs1walk = false) → f.write = (iswrite && !s2fs1walk)))

/-- R166 to R168, R171 (spec/42_stage2.md section B): stage 2 of the access faults in order: an unaligned data
access to Device memory is an Alignment fault of stage 2, else a forbidden access is a stage 2 Permission fault
with the IPA and the stage 2 level. DERIVED (R274, notes/assumptions/12.md): a permitted fetch from memory that
stage 2 makes Device is a stage 2 Permission fault, or is made as Normal Non-cacheable before the stages are
combined, at the implementation's choice. -/
def Obligations.StageTwoAccessFaults : Prop :=
  ∀ (s : State) (req : Request) (w : Walk) (s1 d : AddressDescriptor) (f : LeafS2) (i : Instr),
    s.phase = .walking req w (.access s1) d → i = .descBlockS2 f ∨ i = .descPageS2 f →
    fitsContext (walkContext w (.access s1)) i = true → LeafPasses s w f.contiguous f.addr f.af →
    s.s2WalkAssert = true → s1.isFault = false →
    (s.s2LeafType req f = .device → req.wasaligned = false → req.acctype ≠ .ifetch →
      EndsRecorded s (exec i s) (fun x => x.kind = .alignment ∧ x.acctype = req.acctype ∧ x.write = req.iswrite ∧
        x.secondstage = true)) ∧
    (s.s2LeafType req f = .normal ∨ req.wasaligned = true ∨ req.acctype = .ifetch →
      (if req.acctype = .ifetch then f.xn = true
        else f.s2ap.getLsbD (if req.iswrite then 1 else 0) = false) →
      EndsRecorded s (exec i s) (fun x => x.kind = .permission ∧ x.ipaddress = w.ipaddress ∧
        x.level = w.level.val ∧ x.acctype = req.acctype ∧ x.secondstage = true ∧ x.s2fs1walk = false ∧
        (req.acctype ≠ .ifetch → x.write = req.iswrite))) ∧
    (s.s2LeafType req f = .device → req.acctype = .ifetch → f.xn = false →
      let faults := EndsRecorded s (exec i s) (fun x =>
        x = { kind := .permission, ipaddress := w.ipaddress, level := w.level.val, acctype := .ifetch,
              write := req.iswrite, secondstage := true, s2fs1walk := false })
      let fetches := ∃ (rec : TLBRecord) (ad : AddressDescriptor),
        exec i s = .next { s with lastWalk := some rec, results := s.results ++ [ad], phase := .idle,
                                  tick := s.tick + 1 } ∧
        ad.isFault = false ∧ ad.paddress.ns = true ∧
        ad.paddress.physicaladdress.toNat = outputNat f.addr w.inputaddr (addrselectbottom w.granule w.level) ∧
        (s1.memattrs.memtype = .device → ad.memattrs.memtype = .device) ∧
        (s1.memattrs.memtype = .normal → ad.memattrs.memtype = .normal ∧ ad.memattrs.inner.attrs = .nc ∧
          ad.memattrs.outer.attrs = .nc ∧ ad.memattrs.shareable = true ∧ ad.memattrs.outershareable = true)
      (s.cfg.cuInstrDevice = .fixed .fault → faults) ∧ (s.cfg.cuInstrDevice = .fixed .none → fetches) ∧
        (faults ∨ fetches))

/-- R161, R168, R169, R207: stage 2 of a stage 1 descriptor address faults when it does not permit a read, and,
with `HCR_EL2.PTW`, when it gives Device memory; the fault is the call's result, with `s2fs1walk`. DERIVED (R274
with D30; notes/assumptions/12.md, 33.md): for a fetch, Device memory is a Permission fault or becomes Normal
Non-cacheable first, at the implementation's choice; then the walk goes on whatever `PTW`, which tests the type
that step leaves. -/
def Obligations.StageTwoWalkFaults : Prop :=
  ∀ (s : State) (req : Request) (w outer : Walk) (s1 d : AddressDescriptor) (f : LeafS2) (i : Instr),
    s.phase = .walking req w (.table outer s1) d → i = .descBlockS2 f ∨ i = .descPageS2 f →
    fitsContext (walkContext w (.table outer s1)) i = true → LeafPasses s w f.contiguous f.addr f.af →
    s.s2WalkAssert = true → s1.isFault = false →
    (f.s2ap.getLsbD 0 = false →
      EndsRecorded s (exec i s) (fun x =>
        x = { kind := .permission, ipaddress := w.ipaddress, level := w.level.val, acctype := req.acctype,
              write := false, secondstage := true, s2fs1walk := true })) ∧
    (f.s2ap.getLsbD 0 = true → s.s2LeafType req f = .device →
      let faults := EndsRecorded s (exec i s) (fun x =>
        x = { kind := .permission, ipaddress := w.ipaddress, level := w.level.val, acctype := req.acctype,
              write := req.iswrite, secondstage := true, s2fs1walk := true })
      let resumes := ResumesStage1 s req w outer f (exec i s)
      (req.acctype ≠ .ifetch → s.regs.hcrEl2.ptw = true → faults) ∧
      (req.acctype = .ifetch →
        (s.cfg.cuInstrDevice = .fixed .fault → faults) ∧ (s.cfg.cuInstrDevice = .fixed .none → resumes) ∧
          (faults ∨ resumes)))

/-- DERIVED (R275, general knowledge; notes/assumptions/13.md): a fault of either stage is the result; combining
two stages that did not fault gives the stage 2 address and the more restrictive of the memory types, of the Device
types present (a Normal side imposes none) and of the cacheabilities, with the hints of stage 1 and, of Normal memory,
the shareability of either side (Non-cacheable memory is Outer Shareable, R250). -/
def Obligations.CombinedAttributesAreTheStricter : Prop :=
  [DeviceType.nGnRnE, .nGnRE, .nGRE, .gre].map deviceRank = [0, 1, 2, 3] ∧
  ∀ (u : Unknown) (s1 s2 : AddressDescriptor),
    (s1.isFault = true → combineS1S2Desc u s1 s2 = s1) ∧
    (s1.isFault = false → s2.isFault = true → combineS1S2Desc u s1 s2 = s2) ∧
    (s1.isFault = false → s2.isFault = false →
      let c := combineS1S2Desc u s1 s2
      let a := s1.memattrs
      let b := s2.memattrs
      let m := c.memattrs
      c.isFault = false ∧ c.paddress = s2.paddress ∧
      (m.memtype = .device ↔ a.memtype = .device ∨ b.memtype = .device) ∧
      (m.memtype = .device → m.shareable = true ∧ m.outershareable = true) ∧
      (a.memtype = .device → b.memtype = .normal → m.device = a.device) ∧
      (a.memtype = .normal → b.memtype = .device → m.device = b.device) ∧
      (a.memtype = .device → b.memtype = .device →
        (m.device = a.device ∨ m.device = b.device) ∧ deviceRank m.device ≤ deviceRank a.device ∧
          deviceRank m.device ≤ deviceRank b.device) ∧
      (m.memtype = .normal →
        let nc := a.inner.attrs = .nc ∨ b.inner.attrs = .nc
        let ncOuter := a.outer.attrs = .nc ∨ b.outer.attrs = .nc
        (m.inner.attrs = .nc ↔ nc) ∧ (m.inner.attrs = .wb ↔ a.inner.attrs = .wb ∧ b.inner.attrs = .wb) ∧
        (m.outer.attrs = .nc ↔ ncOuter) ∧ (m.outer.attrs = .wb ↔ a.outer.attrs = .wb ∧ b.outer.attrs = .wb) ∧
        m.inner.hints = a.inner.hints ∧ m.inner.transient = a.inner.transient ∧
        m.outer.hints = a.outer.hints ∧ m.outer.transient = a.outer.transient ∧
        (m.shareable = true ↔ a.shareable = true ∨ b.shareable = true ∨ (nc ∧ ncOuter)) ∧
        (m.outershareable = true ↔ a.outershareable = true ∨ b.outershareable = true ∨ (nc ∧ ncOuter))))

/-! ### The MAIR rows -/

/-- R245 to R249: the step that decodes a MAIR byte is what `AArch64.S1AttrDecode`, written in one piece as the
pseudocode has it, makes of the descriptor's SH and AttrIndx, followed by the steps after the walk. -/
def Obligations.MairRowsAgreeWithAttrDecode : Prop :=
  ∀ (s : State) (req : Request) (ip : PAddr) (r : TLBRecord) (sh : BitVec 2) (index : BitVec 3),
    s.phase = .attr req ip r sh index →
    let r' : TLBRecord :=
      { r with addrdesc :=
          { r.addrdesc with memattrs := s.s1AttrDecode (s.unknown .s1Attr) sh index req.acctype } }
    let s' : State := { s with lastWalk := some r' }
    step s = s'.afterStage1 req (s'.stage1Checks req r' ip true)

/-- R248: the four Device encodings, whatever SH is; the access then completes stage 1 (spec/44_support.md
section B; DERIVED from R250 in the shareability, and from R257 in the permission hypothesis). -/
def Obligations.DeviceMairRowsComplete : Prop :=
  ∀ (s : State) (req : Request) (ip : PAddr) (r : TLBRecord) (sh : BitVec 2) (index : BitVec 3),
    s.phase = .attr req ip r sh index → r.addrdesc.isFault = false → req.wasaligned = true →
    req.acctype ≠ .ifetch → s.s1Fails r.perms r.addrdesc.paddress.ns req.acctype req.iswrite = false →
    Stage1Succeeds s req r.addrdesc.paddress (DeviceAttrs .nGnRnE) (exec .mairDeviceNGnRnE s) ∧
    Stage1Succeeds s req r.addrdesc.paddress (DeviceAttrs .nGnRE) (exec .mairDeviceNGnRE s) ∧
    Stage1Succeeds s req r.addrdesc.paddress (DeviceAttrs .nGRE) (exec .mairDeviceNGRE s) ∧
    Stage1Succeeds s req r.addrdesc.paddress (DeviceAttrs .gre) (exec .mairDeviceGRE s)

/-- R249: a Normal encoding, with the shareability of SH; the access then completes stage 1 (spec/44_support.md
section B; DERIVED from R250 and R257 as the Device rows). -/
def Obligations.NormalMairRowCompletes : Prop :=
  ∀ (s : State) (req : Request) (ip : PAddr) (r : TLBRecord) (sh : BitVec 2) (index : BitVec 3) (o i : BitVec 4),
    s.phase = .attr req ip r sh index → r.addrdesc.isFault = false → o ≠ 0 → i ≠ 0 →
    s.s1Fails r.perms r.addrdesc.paddress.ns req.acctype req.iswrite = false →
    Stage1Succeeds s req r.addrdesc.paddress
      (NormalAttrs (s.longConvertAttrsHints i req.acctype) (s.longConvertAttrsHints o req.acctype) sh)
      (exec (.mairNormal o i) s)

/-- DERIVED (R247, D4; notes/assumptions/7.md: a choice fixed or made afresh; 8.md: an allocated encoding by its
type): a reserved encoding acts as an allocated one: as the implementation's fixed choice, or as some allocated
encoding when the choice is made afresh. -/
def Obligations.ReservedMairRowsActAsAllocated : Prop :=
  ∀ (s : State) (i : Instr),
    (∃ d, i = .mairReservedDevice01 d ∨ i = .mairReservedDevice10 d ∨ i = .mairReservedDevice11 d) ∨
      (∃ o, o ≠ 0 ∧ i = .mairReservedNormal o) →
    (∀ o n : Fin 15, s.cfg.cuMairBits = .fixed (.normal o n) →
      exec i s = exec (.mairNormal (BitVec.ofNat 4 (o.val + 1)) (BitVec.ofNat 4 (n.val + 1))) s) ∧
    (s.cfg.cuMairBits = .fixed (.device .nGnRnE) → exec i s = exec .mairDeviceNGnRnE s) ∧
    (s.cfg.cuMairBits = .fixed (.device .nGnRE) → exec i s = exec .mairDeviceNGnRE s) ∧
    (s.cfg.cuMairBits = .fixed (.device .nGRE) → exec i s = exec .mairDeviceNGRE s) ∧
    (s.cfg.cuMairBits = .fixed (.device .gre) → exec i s = exec .mairDeviceGRE s) ∧
    ∃ a : Instr,
      (a = .mairDeviceNGnRnE ∨ a = .mairDeviceNGnRE ∨ a = .mairDeviceNGRE ∨ a = .mairDeviceGRE ∨
        ∃ o n : BitVec 4, o ≠ 0 ∧ n ≠ 0 ∧ a = .mairNormal o n) ∧
      exec i s = exec a s

/-- R247 with R248, R249 (spec/44_support.md section B; DERIVED from R250 and R257 as the Device rows): an access
through a reserved encoding completes stage 1 with the attributes of an allocated one. -/
def Obligations.ReservedMairRowsComplete : Prop :=
  ∀ (s : State) (req : Request) (ip : PAddr) (r : TLBRecord) (sh : BitVec 2) (index : BitVec 3) (i : Instr),
    s.phase = .attr req ip r sh index → r.addrdesc.isFault = false → req.wasaligned = true →
    req.acctype ≠ .ifetch → s.s1Fails r.perms r.addrdesc.paddress.ns req.acctype req.iswrite = false →
    (∃ d, i = .mairReservedDevice01 d ∨ i = .mairReservedDevice10 d ∨ i = .mairReservedDevice11 d) ∨
      (∃ o, o ≠ 0 ∧ i = .mairReservedNormal o) →
    Stage1Succeeds s req r.addrdesc.paddress
      (fun m => (∃ k, DeviceAttrs k m) ∨
        ∃ o n : BitVec 4, o ≠ 0 ∧ n ≠ 0 ∧
          NormalAttrs (s.longConvertAttrsHints n req.acctype) (s.longConvertAttrsHints o req.acctype) sh m)
      (exec i s)

/-- R136: unaligned data in Device memory is a stage 1 Alignment fault, before any permission check: for every
record a walk or the flat map returns, and for the four Device rows. -/
def Obligations.MisalignedDeviceDataFaults : Prop :=
  ∀ (s : State) (req : Request), req.wasaligned = false → req.acctype ≠ .ifetch →
    let P : FaultRecord → Prop := fun f =>
      f.kind = .alignment ∧ f.acctype = req.acctype ∧ f.write = req.iswrite ∧ f.secondstage = false
    (∀ (r : TLBRecord) (ip : PAddr) (permissioncheck : Bool), r.addrdesc.isFault = false →
      r.addrdesc.memattrs.memtype = .device → P (s.stage1Checks req r ip permissioncheck).fault) ∧
    ∀ (ip : PAddr) (r : TLBRecord) (sh : BitVec 2) (index : BitVec 3) (i : Instr),
      s.phase = .attr req ip r sh index → r.addrdesc.isFault = false →
      i = .mairDeviceNGnRnE ∨ i = .mairDeviceNGnRE ∨ i = .mairDeviceNGRE ∨ i = .mairDeviceGRE →
      EndsRecorded s (exec i s) P

/-- R137, R256 (spec/41_stage1.md section A; DERIVED from R257, notes/assumptions/11.md): an access that stage 1
forbids ends the call with a stage 1 Permission fault at the walk's level, whatever the MAIR byte; stage 2 is
not asked. Unaligned data is forbidden so in Normal memory, and in Device memory the Alignment fault of
`Obligations.MisalignedDeviceDataFaults` comes first; behind a reserved byte whose choice is made afresh it is one
of the two. -/
def Obligations.StageOnePermissionFault : Prop :=
  ∀ (s : State) (req : Request) (ip : PAddr) (r : TLBRecord) (sh : BitVec 2) (index : BitVec 3) (i : Instr),
    s.phase = .attr req ip r sh index → r.addrdesc.isFault = false → i.isMair = true → i.wf = true →
    s.s1Fails r.perms r.addrdesc.paddress.ns req.acctype req.iswrite = true →
    let P : FaultRecord → Prop := fun f =>
      f.kind = .permission ∧ f.level = r.level ∧ f.acctype = req.acctype ∧
        f.write = (req.iswrite && req.acctype != .ifetch) ∧ f.secondstage = false ∧ f.s2fs1walk = false
    let reserved := (∃ d, i = .mairReservedDevice01 d ∨ i = .mairReservedDevice10 d ∨ i = .mairReservedDevice11 d) ∨
      ∃ o, i = .mairReservedNormal o
    (req.wasaligned = true ∨ req.acctype = .ifetch ∨ (∃ o n, i = .mairNormal o n) ∨
        (reserved ∧ ∃ o n, s.cfg.cuMairBits = .fixed (.normal o n)) →
      EndsRecorded s (exec i s) P) ∧
    (req.wasaligned = false → req.acctype ≠ .ifetch → reserved →
      EndsRecorded s (exec i s) (fun f => P f ∨
        (f.kind = .alignment ∧ f.acctype = req.acctype ∧ f.write = req.iswrite ∧ f.secondstage = false)))

/-- DERIVED (R257, general knowledge; notes/assumptions/11.md): what stage 1 forbids, by the access permission
bits as R111 reads them. -/
def Obligations.StageOnePermissionTable : Prop :=
  ∀ (s : State) (p : Permissions) (ns : Bool) (acctype : AccType) (iswrite : Bool),
    let fails := s.s1Fails p ns acctype iswrite
    let ro := p.ap.getLsbD 2
    let el0 := p.ap.getLsbD 1
    let wxn := s.sctlr.wxn
    let unprivileged := s.el = .el0 ∨ (s.el = .el1 ∧ acctype = .unpriv)
    let secureFetch := s.cfg.haveEl3 = true ∧ s.isSecure = true ∧ ns = true ∧ s.regs.scrEl3.sif = true
    (acctype ≠ .ifetch → iswrite = true → unprivileged → fails = (ro || !el0)) ∧
    (acctype ≠ .ifetch → iswrite = false → unprivileged → fails = !el0) ∧
    (acctype ≠ .ifetch → iswrite = true → ¬unprivileged → fails = ro) ∧
    (acctype ≠ .ifetch → iswrite = false → ¬unprivileged → fails = false) ∧
    (acctype = .ifetch → secureFetch → fails = true) ∧
    (acctype = .ifetch → ¬secureFetch →
      (s.el = .el0 → fails = (p.xn || (wxn && el0 && !ro))) ∧
      (s.el = .el1 → fails = (p.pxn || (wxn && !ro) || (el0 && !ro))) ∧
      (s.el = .el2 ∨ s.el = .el3 → fails = (p.xn || (wxn && !ro))))

/-- DERIVED (R138, R274, general knowledge; notes/assumptions/12.md): a permitted fetch from Device memory is a
Permission fault or is made as Normal Non-cacheable, at the implementation's choice. -/
def Obligations.FetchFromDeviceIsTheChoice : Prop :=
  ∀ (s : State) (req : Request) (ip : PAddr) (r : TLBRecord) (sh : BitVec 2) (index : BitVec 3) (i : Instr),
    s.phase = .attr req ip r sh index → r.addrdesc.isFault = false → req.acctype = .ifetch →
    s.s1Fails r.perms r.addrdesc.paddress.ns req.acctype req.iswrite = false →
    i = .mairDeviceNGnRnE ∨ i = .mairDeviceNGnRE ∨ i = .mairDeviceNGRE ∨ i = .mairDeviceGRE →
    let faults := EndsRecorded s (exec i s) (fun f =>
      f = { kind := .permission, ipaddress := ip, level := r.level, acctype := .ifetch, write := req.iswrite,
            secondstage := false, s2fs1walk := false })
    let fetches := Stage1Succeeds s req r.addrdesc.paddress
      (fun m => m.memtype = .normal ∧ m.inner.attrs = .nc ∧ m.inner.hints = .no ∧ m.outer = m.inner ∧
        m.shareable = true ∧ m.outershareable = true) (exec i s)
    (s.cfg.cuInstrDevice = .fixed .fault → faults) ∧ (s.cfg.cuInstrDevice = .fixed .none → fetches) ∧
      (faults ∨ fetches)

/-- DERIVED (R108 to R110, R276, R277, general knowledge; notes/assumptions/14.md, 15.md): the cacheability
tables, with the caches on and off, and the bits that turn them off; and the attributes with which descriptors are
read (R241, and R250 in their shareability). -/
def Obligations.CacheabilityTables : Prop :=
  ∀ (s : State) (acctype : AccType),
    (acctype = .ifetch → s.s1CacheDisabled acctype = !s.sctlr.i ∧ s.s2CacheDisabled acctype = s.regs.hcrEl2.idd) ∧
    (acctype ≠ .ifetch → s.s1CacheDisabled acctype = !s.sctlr.c ∧ s.s2CacheDisabled acctype = s.regs.hcrEl2.cd) ∧
    (∀ (u : Unknown) (sh orgn irgn : BitVec 2),
      NormalAttrs (s.shortConvertAttrsHints irgn .normal) (s.shortConvertAttrsHints orgn .normal) sh
        (s.walkAttrDecode u sh orgn irgn)) ∧
    (s.s1CacheDisabled acctype = true → (∀ rgn, s.shortConvertAttrsHints rgn acctype = ⟨.nc, .no, false⟩) ∧
      ∀ a, s.longConvertAttrsHints a acctype = ⟨.nc, .no, false⟩) ∧
    (s.s1CacheDisabled acctype = false →
      [(0b00 : BitVec 2), 0b01, 0b10, 0b11].map (fun rgn => s.shortConvertAttrsHints rgn acctype) =
        [⟨.nc, .no, false⟩, ⟨.wb, .rwa, false⟩, ⟨.wt, .ra, false⟩, ⟨.wb, .ra, false⟩] ∧
      [(0x1 : BitVec 4), 0x2, 0x3, 0x4, 0x5, 0x6, 0x7].map (fun a => s.longConvertAttrsHints a acctype) =
        [⟨.wt, .wa, true⟩, ⟨.wt, .ra, true⟩, ⟨.wt, .rwa, true⟩, ⟨.nc, .no, false⟩, ⟨.wb, .wa, true⟩, ⟨.wb, .ra, true⟩,
         ⟨.wb, .rwa, true⟩] ∧
      [(0x8 : BitVec 4), 0x9, 0xA, 0xB, 0xC, 0xD, 0xE, 0xF].map (fun a => s.longConvertAttrsHints a acctype) =
        [⟨.wt, .no, false⟩, ⟨.wt, .wa, false⟩, ⟨.wt, .ra, false⟩, ⟨.wt, .rwa, false⟩, ⟨.wb, .no, false⟩,
         ⟨.wb, .wa, false⟩, ⟨.wb, .ra, false⟩, ⟨.wb, .rwa, false⟩]) ∧
    (∀ (u : Unknown) (sh : BitVec 2) (memAttr : BitVec 4),
      (s2Device memAttr → DeviceAttrs
        (if memAttr = 0b0000 then .nGnRnE else if memAttr = 0b0001 then .nGnRE
          else if memAttr = 0b0010 then .nGRE else .gre) (s.s2AttrDecode u sh memAttr acctype)) ∧
      (s2Normal memAttr → s.s2CacheDisabled acctype = false →
        let side : BitVec 2 → MemAttrHints := fun b =>
          if b = 0b01 then ⟨.nc, .no, false⟩ else if b = 0b10 then ⟨.wt, .rwa, false⟩ else ⟨.wb, .rwa, false⟩
        NormalAttrs (side (memAttr.extractLsb' 0 2)) (side (memAttr.extractLsb' 2 2)) sh
          (s.s2AttrDecode u sh memAttr acctype)) ∧
      (s2Normal memAttr → s.s2CacheDisabled acctype = true →
        NormalAttrs ⟨.nc, .no, false⟩ ⟨.nc, .no, false⟩ sh (s.s2AttrDecode u sh memAttr acctype)))

/-- DERIVED (D9; notes/assumptions/26.md, 28.md): what an instruction term that is not the word the call waits
for answers. No step gets there (`Obligations.NoStepIsRefusedInAArch64`). -/
def Obligations.WordsOutOfTurnAreRefused : Prop :=
  ∀ (s : State) (i : Instr),
    (i.isMair = false →
      (s.phase = .idle → exec i s = .refused .noDescriptorDue) ∧
      (∀ req ip r sh index, s.phase = .attr req ip r sh index → exec i s = .refused .noDescriptorDue) ∧
      (∀ req w target d, s.phase = .walking req w target d → fitsContext (walkContext w target) i = false →
        exec i s = .refused .outsideRowContext)) ∧
    (i.isMair = true → i.wf = false → exec i s = .refused .unreachable) ∧
    (i.isMair = true → i.wf = true →
      (s.phase = .idle → exec i s = .refused .noAttributeDue) ∧
      (∀ req w target d, s.phase = .walking req w target d → exec i s = .refused .noAttributeDue))
end

