-- ==== Sys2Proof/Laws/Bits.lean ====
section
/-! SUPPORT. Slices of words put together, and what the address operations compute as numbers. -/

namespace Sys2Proof.Machine

/-! ### Slices of an appended word -/

/-- A slice inside the low part. -/
theorem extract_append_low {m n : Nat} (x : BitVec m) (y : BitVec n) {i k : Nat} (h : i + k ≤ n) :
    (x ++ y).extractLsb' i k = y.extractLsb' i k := by
  apply BitVec.eq_of_getLsbD_eq
  intro j hj
  simp only [BitVec.getLsbD_extractLsb', BitVec.getLsbD_append, hj, decide_true, Bool.true_and]
  rw [if_pos (by omega)]

/-- A slice inside the high part. -/
theorem extract_append_high {m n : Nat} (x : BitVec m) (y : BitVec n) {i k : Nat} (h : n ≤ i) :
    (x ++ y).extractLsb' i k = x.extractLsb' (i - n) k := by
  apply BitVec.eq_of_getLsbD_eq
  intro j hj
  simp only [BitVec.getLsbD_extractLsb', BitVec.getLsbD_append, hj, decide_true, Bool.true_and]
  rw [if_neg (by omega), show i + j - n = i - n + j by omega]

/-- A bit of the low part. -/
theorem bit_append_low {m n : Nat} (x : BitVec m) (y : BitVec n) {i : Nat} (h : i < n) :
    (x ++ y).getLsbD i = y.getLsbD i := by
  rw [BitVec.getLsbD_append, if_pos h]

/-- A bit of the high part. -/
theorem bit_append_high {m n : Nat} (x : BitVec m) (y : BitVec n) {i : Nat} (h : n ≤ i) :
    (x ++ y).getLsbD i = x.getLsbD (i - n) := by
  rw [BitVec.getLsbD_append, if_neg (by omega)]

@[simp] theorem bit1_zero (b : Bool) : (bit1 b).getLsbD 0 = b := by cases b <;> rfl

@[simp] theorem extract_all {n : Nat} (x : BitVec n) : x.extractLsb' 0 n = x := by
  apply BitVec.eq_of_getLsbD_eq
  intro j hj
  simp [hj]

/-! ### Bytes -/

/-- The word of the bytes of a word. -/
@[simp] theorem wordOfBytes_bytesOfWord (v : Word) : wordOfBytes (bytesOfWord v) = some v := by
  simp only [wordOfBytes, bytesOfWord, Option.some.injEq]
  apply BitVec.eq_of_getLsbD_eq
  intro i hi
  simp only [BitVec.getLsbD_append, BitVec.getLsbD_extractLsb']
  split_ifs <;>
    first
    | simp only [Nat.zero_add, Bool.and_eq_right_iff_imp]; intro _; exact decide_eq_true (by omega)
    | rw [decide_eq_true (by omega), Bool.true_and]; congr 1; omega

/-- The bytes of a reversed word (R68). -/
theorem bytesOfWord_bigEndianReverse (v : Word) : bytesOfWord (bigEndianReverse v) = (bytesOfWord v).reverse := by
  simp only [bytesOfWord, bigEndianReverse, List.reverse_cons, List.reverse_nil, List.nil_append, List.cons_append]
  simp (disch := decide) only [extract_append_low, extract_append_high, Nat.reduceSub, extract_all]

/-- Reversing twice (R68). -/
@[simp] theorem bigEndianReverse_twice (v : Word) : bigEndianReverse (bigEndianReverse v) = v := by
  have h : wordOfBytes (bytesOfWord (bigEndianReverse v)).reverse = some (bigEndianReverse (bigEndianReverse v)) := rfl
  rw [bytesOfWord_bigEndianReverse, List.reverse_reverse, wordOfBytes_bytesOfWord] at h
  exact (Option.some.inj h).symm

/-! ### The address operations as numbers -/

/-- Clearing the low bits. -/
theorem clearLow_toNat {n : Nat} (v : BitVec n) (k : Nat) : (clearLow v k).toNat = v.toNat / 2 ^ k * 2 ^ k := by
  unfold clearLow
  rw [BitVec.toNat_shiftLeft, BitVec.toNat_ushiftRight, Nat.shiftRight_eq_div_pow, Nat.shiftLeft_eq]
  exact Nat.mod_eq_of_lt (Nat.lt_of_le_of_lt (Nat.div_mul_le_self _ _) v.isLt)

/-- The low bits. -/
theorem lowBits_toNat (v : Word) {k : Nat} (h : k ≤ 48) : (lowBits v k).toNat = v.toNat % 2 ^ k := by
  unfold lowBits
  rw [BitVec.toNat_setWidth, BitVec.extractLsb'_toNat, Nat.shiftRight_zero]
  exact Nat.mod_eq_of_lt (Nat.lt_of_lt_of_le (Nat.mod_lt _ (Nat.two_pow_pos k)) (Nat.pow_le_pow_right (by omega) h))

/-- The address bits of a descriptor in place. -/
theorem addrField_toNat (a : BitVec 36) : (addrField a).toNat = a.toNat * 4096 := by
  unfold addrField
  rw [BitVec.toNat_append, Nat.shiftLeft_eq]
  simp

/-- Multiples of `2 ^ k` and numbers below it are put together by addition. -/
theorem mul_pow_or (x y k : Nat) (h : y < 2 ^ k) : (x * 2 ^ k ||| y) = x * 2 ^ k + y := by
  rw [Nat.mul_comm]
  exact (Nat.two_pow_add_eq_or_of_lt h x).symm

/-- The output address (R221) as a number. -/
theorem outputAddress_toNat (a : BitVec 36) (v : Word) {n : Nat} (h : n ≤ 48) :
    (outputAddress a v n).toNat = outputNat a v n := by
  unfold outputAddress outputNat
  rw [BitVec.toNat_or, clearLow_toNat, lowBits_toNat v h, addrField_toNat]
  exact mul_pow_or _ _ _ (Nat.mod_lt _ (Nat.two_pow_pos n))

/-- The next table (R213) as a number. -/
theorem nextTableBase_toNat (a : BitVec 36) (g : Granule) :
    (nextTableBase a g).toNat = a.toNat * 4096 / 2 ^ grainsize g * 2 ^ grainsize g := by
  unfold nextTableBase
  rw [clearLow_toNat, addrField_toNat]

/-- The scaled index (R206). -/
theorem tableIndex_eq (v : Word) (top bottom : Nat) :
    tableIndex v top bottom = BitVec.ofNat 48 (8 * indexNat v top bottom) := by
  apply BitVec.eq_of_toNat_eq
  unfold tableIndex indexNat
  rw [BitVec.toNat_shiftLeft, BitVec.toNat_setWidth, BitVec.extractLsb'_toNat, BitVec.toNat_ofNat,
    Nat.shiftRight_eq_div_pow, Nat.shiftLeft_eq, Nat.mod_mul_mod, Nat.mul_comm]

/-- The descriptor address of a walk (R206). -/
theorem descriptorAddress_eq (w : Walk) :
    descriptorAddress w = { physicaladdress := entryAddress w, ns := w.nsTable } := by
  unfold descriptorAddress entryAddress
  rw [tableIndex_eq]

/-- The slice of a number above its low part. -/
theorem mod_pow_slice (x a b : Nat) : x % 2 ^ (a + b) = x % 2 ^ a + 2 ^ a * (x / 2 ^ a % 2 ^ b) := by
  rw [Nat.pow_add, Nat.mod_mul]

/-- A slice is all zeros: the number up to its top is below its bottom's power. -/
theorem isZeroSlice_iff {n : Nat} (v : BitVec n) {hi lo : Nat} (h : lo ≤ hi + 1) :
    isZeroSlice v hi lo = true ↔ v.toNat % 2 ^ (hi + 1) < 2 ^ lo := by
  obtain ⟨k, hk⟩ := Nat.exists_eq_add_of_le h
  unfold isZeroSlice
  rw [beq_iff_eq, ← BitVec.toNat_inj, BitVec.extractLsb'_toNat, Nat.shiftRight_eq_div_pow, hk, mod_pow_slice,
    show lo + k - lo = k by omega]
  have hm : v.toNat % 2 ^ lo < 2 ^ lo := Nat.mod_lt _ (Nat.two_pow_pos lo)
  simp only [BitVec.ofNat_eq_ofNat, BitVec.toNat_ofNat, Nat.zero_mod]
  constructor
  · intro h0
    rw [h0]
    omega
  · intro hlt
    by_contra hne
    have := Nat.mul_le_mul_left (2 ^ lo) (Nat.one_le_iff_ne_zero.mpr hne)
    omega

/-- A slice is all ones: the number up to its top is within its bottom's power of the end. -/
theorem isOnesSlice_iff {n : Nat} (v : BitVec n) {hi lo : Nat} (h : lo ≤ hi + 1) :
    isOnesSlice v hi lo = true ↔ 2 ^ (hi + 1) - 2 ^ lo ≤ v.toNat % 2 ^ (hi + 1) := by
  obtain ⟨k, hk⟩ := Nat.exists_eq_add_of_le h
  unfold isOnesSlice
  rw [beq_iff_eq, ← BitVec.toNat_inj, BitVec.extractLsb'_toNat, Nat.shiftRight_eq_div_pow, BitVec.toNat_allOnes, hk,
    mod_pow_slice, show lo + k - lo = k by omega, Nat.pow_add]
  have hm : v.toNat % 2 ^ lo < 2 ^ lo := Nat.mod_lt _ (Nat.two_pow_pos lo)
  have hs : v.toNat / 2 ^ lo % 2 ^ k < 2 ^ k := Nat.mod_lt _ (Nat.two_pow_pos k)
  generalize v.toNat / 2 ^ lo % 2 ^ k = q at hs ⊢
  have he : 2 ^ lo * 2 ^ k - 2 ^ lo = 2 ^ lo * (2 ^ k - 1) := by rw [Nat.mul_sub, Nat.mul_one]
  rw [he]
  constructor
  · rintro rfl
    omega
  · intro hle
    by_contra hne
    have := Nat.mul_le_mul_left (2 ^ lo) (show q + 1 ≤ 2 ^ k - 1 by omega)
    rw [Nat.mul_add, Nat.mul_one] at this
    omega

/-- An address with a bit at or above the output size (R202, R212, R219). -/
theorem addressTooWide_iff (v : PAddr) (o : PaSize) : addressTooWide v o = true ↔ 2 ^ PaSize.bits o ≤ v.toNat := by
  have hv : v.toNat % 2 ^ (47 + 1) = v.toNat := Nat.mod_eq_of_lt v.isLt
  unfold addressTooWide
  rw [Bool.and_eq_true, Bool.not_eq_true', ← Bool.not_eq_true,
    isZeroSlice_iff v (by cases o <;> decide), hv, Nat.not_lt]
  refine ⟨fun h => h.2, fun h => ⟨?_, h⟩⟩
  have := v.isLt
  cases o <;> first | rfl | (simp only [PaSize.bits] at h; omega)

end Sys2Proof.Machine
end

