-- ==== Sys2Proof/Laws/Memory.lean ====
section
/-! SUPPORT. Physical memory: a read after a write, and that every memory operation keeps the canonical
form. -/

namespace Sys2Proof.Machine

@[simp] theorem Memory.read_nil (a : Nat) : Memory.read [] a = Memory.unlisted := rfl

theorem Memory.read_cons (k : Nat) (b : Byte) (m : Memory) (a : Nat) :
    Memory.read ((k, b) :: m) a = if k = a then b else Memory.read m a := rfl

/-- Below its first address a canonical memory lists nothing. -/
theorem Memory.read_below {lo : Nat} {m : Memory} (h : Memory.wfFrom lo m = true) {a : Nat} (ha : a < lo) :
    Memory.read m a = Memory.unlisted := by
  induction m generalizing lo with
  | nil => rfl
  | cons c m ih =>
    obtain ⟨k, b⟩ := c
    simp only [Memory.wfFrom, Bool.and_eq_true, decide_eq_true_eq] at h
    rw [Memory.read_cons, if_neg (by omega)]
    exact ih h.2 (by omega)

/-- A memory canonical from `lo` on is canonical from any lower address on. -/
theorem Memory.wfFrom_mono {lo lo' : Nat} {m : Memory} (h : Memory.wfFrom lo m = true) (hl : lo' ≤ lo) :
    Memory.wfFrom lo' m = true := by
  cases m with
  | nil => rfl
  | cons c m =>
    obtain ⟨k, b⟩ := c
    simp only [Memory.wfFrom, Bool.and_eq_true, decide_eq_true_eq] at h ⊢
    exact ⟨⟨⟨by omega, h.1.1.2⟩, h.1.2⟩, h.2⟩

/-- A write keeps the canonical form. -/
theorem Memory.write_wfFrom {lo : Nat} {m : Memory} (h : Memory.wfFrom lo m = true) {a : Nat} (b : Byte)
    (hlo : lo ≤ a) (ha : a < 2 ^ 48) : Memory.wfFrom lo (Memory.write m a b) = true := by
  induction m generalizing lo with
  | nil =>
    by_cases hb : b = Memory.unlisted
    · simp [Memory.write, hb, Memory.wfFrom]
    · simp [Memory.write, hb, Memory.wfFrom]
      omega
  | cons c m ih =>
    obtain ⟨k, x⟩ := c
    have h' := h
    simp only [Memory.wfFrom, Bool.and_eq_true, decide_eq_true_eq] at h'
    obtain ⟨⟨⟨h1, h2⟩, h3⟩, h4⟩ := h'
    unfold Memory.write
    split
    · split
      · exact h
      · rename_i hak hb
        simp only [Memory.wfFrom, Bool.and_eq_true, decide_eq_true_eq, bne_iff_ne, ne_eq]
        exact ⟨⟨⟨hlo, ha⟩, hb⟩, ⟨⟨by omega, h2⟩, by simpa using h3⟩, h4⟩
    · split
      · split
        · exact Memory.wfFrom_mono h4 (by omega)
        · rename_i hak hb
          simp only [Memory.wfFrom, Bool.and_eq_true, decide_eq_true_eq, bne_iff_ne, ne_eq]
          exact ⟨⟨⟨hlo, ha⟩, hb⟩, Memory.wfFrom_mono h4 (by omega)⟩
      · simp only [Memory.wfFrom, Bool.and_eq_true, decide_eq_true_eq]
        exact ⟨⟨⟨h1, h2⟩, h3⟩, ih h4 (by omega)⟩

/-- A write keeps the canonical form. -/
theorem Memory.write_wf {m : Memory} (h : Memory.wf m = true) {a : Nat} (b : Byte) (ha : a < 2 ^ 48) :
    Memory.wf (Memory.write m a b) = true :=
  Memory.write_wfFrom h b (Nat.zero_le a) ha

/-- Writing bytes keeps the canonical form. -/
theorem Memory.writeBytes_wf {m : Memory} (h : Memory.wf m = true) {a : Nat} (bs : List Byte)
    (ha : a + bs.length ≤ 2 ^ 48) : Memory.wf (Memory.writeBytes m a bs) = true := by
  induction bs generalizing m a with
  | nil => exact h
  | cons b bs ih =>
    simp only [List.length_cons] at ha
    exact ih (Memory.write_wf h b (by omega)) (by omega)

/-- A read after a write: the byte written at its address, every other byte as before. -/
theorem Memory.read_write {m : Memory} {lo : Nat} (h : Memory.wfFrom lo m = true) (a : Nat) (b : Byte) (x : Nat) :
    Memory.read (Memory.write m a b) x = if a = x then b else Memory.read m x := by
  induction m generalizing lo with
  | nil =>
    by_cases hb : b = Memory.unlisted <;> simp [Memory.write, hb, Memory.read_cons]
  | cons c m ih =>
    obtain ⟨k, y⟩ := c
    have h' := h
    simp only [Memory.wfFrom, Bool.and_eq_true, decide_eq_true_eq] at h'
    obtain ⟨⟨⟨h1, h2⟩, h3⟩, h4⟩ := h'
    unfold Memory.write
    split
    · rename_i hak
      split
      · rename_i hb
        by_cases hx : a = x
        · subst hx
          rw [if_pos rfl, hb, Memory.read_cons, if_neg (by omega)]
          exact Memory.read_below h4 (by omega)
        · rw [if_neg hx]
      · rw [Memory.read_cons]
    · rename_i hak
      split
      · rename_i hkk
        subst hkk
        split
        · rename_i hb
          by_cases hx : a = x
          · subst hx
            rw [if_pos rfl, hb]
            exact Memory.read_below h4 (by omega)
          · rw [if_neg hx, Memory.read_cons, if_neg hx]
        · rw [Memory.read_cons, Memory.read_cons]
          by_cases hx : a = x <;> simp [hx]
      · rename_i hkk
        rw [Memory.read_cons, Memory.read_cons, ih h4]
        by_cases hx : a = x
        · subst hx
          simp [Ne.symm hkk]
        · rw [if_neg hx]
          simp [hx]

/-- Bytes below the place written are as before. -/
theorem Memory.read_writeBytes_below {m : Memory} (h : Memory.wf m = true) (a : Nat) (bs : List Byte) {x : Nat}
    (hx : x < a) (ha : a + bs.length ≤ 2 ^ 48) : Memory.read (Memory.writeBytes m a bs) x = Memory.read m x := by
  induction bs generalizing m a with
  | nil => rfl
  | cons b bs ih =>
    simp only [List.length_cons] at ha
    show Memory.read (Memory.writeBytes (Memory.write m a b) (a + 1) bs) x = _
    rw [ih (Memory.write_wf h b (by omega)) (a + 1) (by omega) (by omega), Memory.read_write h]
    exact if_neg (by omega)

/-- A read after writing bytes: the byte written at each of their addresses. -/
theorem Memory.read_writeBytes {m : Memory} (h : Memory.wf m = true) (a : Nat) (bs : List Byte) (i : Nat)
    (hi : i < bs.length) (ha : a + bs.length ≤ 2 ^ 48) :
    Memory.read (Memory.writeBytes m a bs) (a + i) = bs[i] := by
  induction bs generalizing m a i with
  | nil => exact absurd hi (Nat.not_lt_zero i)
  | cons b bs ih =>
    simp only [List.length_cons] at ha hi
    have hw := Memory.write_wf h b (show a < 2 ^ 48 by omega)
    show Memory.read (Memory.writeBytes (Memory.write m a b) (a + 1) bs) (a + i) = _
    cases i with
    | zero =>
      rw [Memory.read_writeBytes_below hw (a + 1) bs (by omega) (by omega), Memory.read_write h]
      exact if_pos (by omega)
    | succ j =>
      have := ih hw (a + 1) j (by omega) (by omega)
      rw [show a + (j + 1) = a + 1 + j by omega, this]
      rfl

end Sys2Proof.Machine
end

