-- ==== Sys2Proof/Laws/State.lean ====
section
/-! SUPPORT. What each update of the state does to each field, and that the queries of the execution context
do not see the call in progress. -/

namespace Sys2Proof.Machine

/-! ### `State.goto` -/

@[simp] theorem State.goto_cfg (s : State) (p : Phase) : (s.goto p).cfg = s.cfg := rfl
@[simp] theorem State.goto_el (s : State) (p : Phase) : (s.goto p).el = s.el := rfl
@[simp] theorem State.goto_el0Aarch32 (s : State) (p : Phase) : (s.goto p).el0Aarch32 = s.el0Aarch32 := rfl
@[simp] theorem State.goto_el1Aarch32 (s : State) (p : Phase) : (s.goto p).el1Aarch32 = s.el1Aarch32 := rfl
@[simp] theorem State.goto_el2Aarch32 (s : State) (p : Phase) : (s.goto p).el2Aarch32 = s.el2Aarch32 := rfl
@[simp] theorem State.goto_el3Aarch32 (s : State) (p : Phase) : (s.goto p).el3Aarch32 = s.el3Aarch32 := rfl
@[simp] theorem State.goto_regs (s : State) (p : Phase) : (s.goto p).regs = s.regs := rfl
@[simp] theorem State.goto_memS (s : State) (p : Phase) : (s.goto p).memS = s.memS := rfl
@[simp] theorem State.goto_memNS (s : State) (p : Phase) : (s.goto p).memNS = s.memNS := rfl
@[simp] theorem State.goto_requests (s : State) (p : Phase) : (s.goto p).requests = s.requests := rfl
@[simp] theorem State.goto_results (s : State) (p : Phase) : (s.goto p).results = s.results := rfl
@[simp] theorem State.goto_phase (s : State) (p : Phase) : (s.goto p).phase = p := rfl
@[simp] theorem State.goto_lastWalk (s : State) (p : Phase) : (s.goto p).lastWalk = s.lastWalk := rfl
@[simp] theorem State.goto_tick (s : State) (p : Phase) : (s.goto p).tick = s.tick + 1 := rfl
@[simp] theorem State.goto_isSecure (s : State) (p : Phase) : (s.goto p).isSecure = s.isSecure := rfl
@[simp] theorem State.goto_twoStages (s : State) (p : Phase) : (s.goto p).twoStages = s.twoStages := rfl
@[simp] theorem State.goto_inEl10 (s : State) (p : Phase) : (s.goto p).inEl10 = s.inEl10 := rfl
@[simp] theorem State.goto_sctlr (s : State) (p : Phase) : (s.goto p).sctlr = s.sctlr := rfl
@[simp] theorem State.goto_mair (s : State) (p : Phase) : (s.goto p).mair = s.mair := rfl
@[simp] theorem State.goto_s2Enabled (s : State) (p : Phase) : (s.goto p).s2Enabled = s.s2Enabled := rfl
@[simp] theorem State.goto_s2WalkAssert (s : State) (p : Phase) : (s.goto p).s2WalkAssert = s.s2WalkAssert := rfl
@[simp] theorem State.goto_s1Regime (s : State) (p : Phase) : (s.goto p).s1Regime = s.s1Regime := rfl
@[simp] theorem State.goto_s1Enabled (s : State) (p : Phase) : (s.goto p).s1Enabled = s.s1Enabled := rfl
@[simp] theorem State.goto_mem (s : State) (p : Phase) (ns : Bool) : (s.goto p).mem ns = s.mem ns := rfl
@[simp] theorem State.goto_readByte (s : State) (p : Phase) (ns : Bool) (x : Nat) :
    (s.goto p).readByte ns x = s.readByte ns x := rfl

/-! ### `State.finish` -/

@[simp] theorem State.finish_cfg (s : State) (ad : AddressDescriptor) : (s.finish ad).cfg = s.cfg := rfl
@[simp] theorem State.finish_el (s : State) (ad : AddressDescriptor) : (s.finish ad).el = s.el := rfl
@[simp] theorem State.finish_el0Aarch32 (s : State) (ad : AddressDescriptor) : (s.finish ad).el0Aarch32 = s.el0Aarch32 := rfl
@[simp] theorem State.finish_el1Aarch32 (s : State) (ad : AddressDescriptor) : (s.finish ad).el1Aarch32 = s.el1Aarch32 := rfl
@[simp] theorem State.finish_el2Aarch32 (s : State) (ad : AddressDescriptor) : (s.finish ad).el2Aarch32 = s.el2Aarch32 := rfl
@[simp] theorem State.finish_el3Aarch32 (s : State) (ad : AddressDescriptor) : (s.finish ad).el3Aarch32 = s.el3Aarch32 := rfl
@[simp] theorem State.finish_regs (s : State) (ad : AddressDescriptor) : (s.finish ad).regs = s.regs := rfl
@[simp] theorem State.finish_memS (s : State) (ad : AddressDescriptor) : (s.finish ad).memS = s.memS := rfl
@[simp] theorem State.finish_memNS (s : State) (ad : AddressDescriptor) : (s.finish ad).memNS = s.memNS := rfl
@[simp] theorem State.finish_requests (s : State) (ad : AddressDescriptor) : (s.finish ad).requests = s.requests := rfl
@[simp] theorem State.finish_results (s : State) (ad : AddressDescriptor) : (s.finish ad).results = s.results ++ [ad] := rfl
@[simp] theorem State.finish_phase (s : State) (ad : AddressDescriptor) : (s.finish ad).phase = .idle := rfl
@[simp] theorem State.finish_lastWalk (s : State) (ad : AddressDescriptor) : (s.finish ad).lastWalk = s.lastWalk := rfl
@[simp] theorem State.finish_tick (s : State) (ad : AddressDescriptor) : (s.finish ad).tick = s.tick + 1 := rfl
@[simp] theorem State.finish_isSecure (s : State) (ad : AddressDescriptor) : (s.finish ad).isSecure = s.isSecure := rfl
@[simp] theorem State.finish_twoStages (s : State) (ad : AddressDescriptor) : (s.finish ad).twoStages = s.twoStages := rfl
@[simp] theorem State.finish_inEl10 (s : State) (ad : AddressDescriptor) : (s.finish ad).inEl10 = s.inEl10 := rfl
@[simp] theorem State.finish_sctlr (s : State) (ad : AddressDescriptor) : (s.finish ad).sctlr = s.sctlr := rfl
@[simp] theorem State.finish_mair (s : State) (ad : AddressDescriptor) : (s.finish ad).mair = s.mair := rfl
@[simp] theorem State.finish_s2Enabled (s : State) (ad : AddressDescriptor) : (s.finish ad).s2Enabled = s.s2Enabled := rfl
@[simp] theorem State.finish_s2WalkAssert (s : State) (ad : AddressDescriptor) : (s.finish ad).s2WalkAssert = s.s2WalkAssert := rfl
@[simp] theorem State.finish_s1Regime (s : State) (ad : AddressDescriptor) : (s.finish ad).s1Regime = s.s1Regime := rfl
@[simp] theorem State.finish_s1Enabled (s : State) (ad : AddressDescriptor) : (s.finish ad).s1Enabled = s.s1Enabled := rfl
@[simp] theorem State.finish_mem (s : State) (ad : AddressDescriptor) (ns : Bool) : (s.finish ad).mem ns = s.mem ns := rfl
@[simp] theorem State.finish_readByte (s : State) (ad : AddressDescriptor) (ns : Bool) (x : Nat) :
    (s.finish ad).readByte ns x = s.readByte ns x := rfl

/-! ### `State.record` -/

@[simp] theorem State.record_cfg (s : State) (r : TLBRecord) : (s.record r).cfg = s.cfg := rfl
@[simp] theorem State.record_el (s : State) (r : TLBRecord) : (s.record r).el = s.el := rfl
@[simp] theorem State.record_el0Aarch32 (s : State) (r : TLBRecord) : (s.record r).el0Aarch32 = s.el0Aarch32 := rfl
@[simp] theorem State.record_el1Aarch32 (s : State) (r : TLBRecord) : (s.record r).el1Aarch32 = s.el1Aarch32 := rfl
@[simp] theorem State.record_el2Aarch32 (s : State) (r : TLBRecord) : (s.record r).el2Aarch32 = s.el2Aarch32 := rfl
@[simp] theorem State.record_el3Aarch32 (s : State) (r : TLBRecord) : (s.record r).el3Aarch32 = s.el3Aarch32 := rfl
@[simp] theorem State.record_regs (s : State) (r : TLBRecord) : (s.record r).regs = s.regs := rfl
@[simp] theorem State.record_memS (s : State) (r : TLBRecord) : (s.record r).memS = s.memS := rfl
@[simp] theorem State.record_memNS (s : State) (r : TLBRecord) : (s.record r).memNS = s.memNS := rfl
@[simp] theorem State.record_requests (s : State) (r : TLBRecord) : (s.record r).requests = s.requests := rfl
@[simp] theorem State.record_results (s : State) (r : TLBRecord) : (s.record r).results = s.results := rfl
@[simp] theorem State.record_phase (s : State) (r : TLBRecord) : (s.record r).phase = s.phase := rfl
@[simp] theorem State.record_lastWalk (s : State) (r : TLBRecord) : (s.record r).lastWalk = some r := rfl
@[simp] theorem State.record_tick (s : State) (r : TLBRecord) : (s.record r).tick = s.tick := rfl
@[simp] theorem State.record_isSecure (s : State) (r : TLBRecord) : (s.record r).isSecure = s.isSecure := rfl
@[simp] theorem State.record_twoStages (s : State) (r : TLBRecord) : (s.record r).twoStages = s.twoStages := rfl
@[simp] theorem State.record_inEl10 (s : State) (r : TLBRecord) : (s.record r).inEl10 = s.inEl10 := rfl
@[simp] theorem State.record_sctlr (s : State) (r : TLBRecord) : (s.record r).sctlr = s.sctlr := rfl
@[simp] theorem State.record_mair (s : State) (r : TLBRecord) : (s.record r).mair = s.mair := rfl
@[simp] theorem State.record_s2Enabled (s : State) (r : TLBRecord) : (s.record r).s2Enabled = s.s2Enabled := rfl
@[simp] theorem State.record_s2WalkAssert (s : State) (r : TLBRecord) : (s.record r).s2WalkAssert = s.s2WalkAssert := rfl
@[simp] theorem State.record_s1Regime (s : State) (r : TLBRecord) : (s.record r).s1Regime = s.s1Regime := rfl
@[simp] theorem State.record_s1Enabled (s : State) (r : TLBRecord) : (s.record r).s1Enabled = s.s1Enabled := rfl
@[simp] theorem State.record_mem (s : State) (r : TLBRecord) (ns : Bool) : (s.record r).mem ns = s.mem ns := rfl
@[simp] theorem State.record_readByte (s : State) (r : TLBRecord) (ns : Bool) (x : Nat) :
    (s.record r).readByte ns x = s.readByte ns x := rfl

/-! ### `State.record` and the draws -/

@[simp] theorem State.record_unknown (s : State) (r : TLBRecord) (p : Place) :
    (s.record r).unknown p = s.unknown p := rfl

/-! ### `State.atDescriptor` -/

@[simp] theorem State.atDescriptor_cfg (s : State) (req : Request) (w : Walk) (target : Target)
    (d : AddressDescriptor) : (s.atDescriptor req w target d).cfg = s.cfg := rfl
@[simp] theorem State.atDescriptor_el (s : State) (req : Request) (w : Walk) (target : Target)
    (d : AddressDescriptor) : (s.atDescriptor req w target d).el = s.el := rfl
@[simp] theorem State.atDescriptor_el0Aarch32 (s : State) (req : Request) (w : Walk) (target : Target)
    (d : AddressDescriptor) : (s.atDescriptor req w target d).el0Aarch32 = s.el0Aarch32 := rfl
@[simp] theorem State.atDescriptor_el1Aarch32 (s : State) (req : Request) (w : Walk) (target : Target)
    (d : AddressDescriptor) : (s.atDescriptor req w target d).el1Aarch32 = s.el1Aarch32 := rfl
@[simp] theorem State.atDescriptor_el2Aarch32 (s : State) (req : Request) (w : Walk) (target : Target)
    (d : AddressDescriptor) : (s.atDescriptor req w target d).el2Aarch32 = s.el2Aarch32 := rfl
@[simp] theorem State.atDescriptor_el3Aarch32 (s : State) (req : Request) (w : Walk) (target : Target)
    (d : AddressDescriptor) : (s.atDescriptor req w target d).el3Aarch32 = s.el3Aarch32 := rfl
@[simp] theorem State.atDescriptor_regs (s : State) (req : Request) (w : Walk) (target : Target)
    (d : AddressDescriptor) : (s.atDescriptor req w target d).regs = s.regs := rfl
@[simp] theorem State.atDescriptor_memS (s : State) (req : Request) (w : Walk) (target : Target)
    (d : AddressDescriptor) : (s.atDescriptor req w target d).memS = s.memS := rfl
@[simp] theorem State.atDescriptor_memNS (s : State) (req : Request) (w : Walk) (target : Target)
    (d : AddressDescriptor) : (s.atDescriptor req w target d).memNS = s.memNS := rfl
@[simp] theorem State.atDescriptor_requests (s : State) (req : Request) (w : Walk) (target : Target)
    (d : AddressDescriptor) : (s.atDescriptor req w target d).requests = s.requests := rfl
@[simp] theorem State.atDescriptor_results (s : State) (req : Request) (w : Walk) (target : Target)
    (d : AddressDescriptor) : (s.atDescriptor req w target d).results = s.results := rfl
@[simp] theorem State.atDescriptor_phase (s : State) (req : Request) (w : Walk) (target : Target)
    (d : AddressDescriptor) : (s.atDescriptor req w target d).phase = .walking req w target { d with vaddress := req.vaddress } := rfl
@[simp] theorem State.atDescriptor_lastWalk (s : State) (req : Request) (w : Walk) (target : Target)
    (d : AddressDescriptor) : (s.atDescriptor req w target d).lastWalk = s.lastWalk := rfl
@[simp] theorem State.atDescriptor_tick (s : State) (req : Request) (w : Walk) (target : Target)
    (d : AddressDescriptor) : (s.atDescriptor req w target d).tick = s.tick + 1 := rfl

/-! ### `State.finishFault` -/

@[simp] theorem State.finishFault_cfg (s : State) (target : Target) (x : FaultRecord) :
    (s.finishFault target x).cfg = s.cfg := by cases target <;> rfl
@[simp] theorem State.finishFault_el (s : State) (target : Target) (x : FaultRecord) :
    (s.finishFault target x).el = s.el := by cases target <;> rfl
@[simp] theorem State.finishFault_el0Aarch32 (s : State) (target : Target) (x : FaultRecord) :
    (s.finishFault target x).el0Aarch32 = s.el0Aarch32 := by cases target <;> rfl
@[simp] theorem State.finishFault_el1Aarch32 (s : State) (target : Target) (x : FaultRecord) :
    (s.finishFault target x).el1Aarch32 = s.el1Aarch32 := by cases target <;> rfl
@[simp] theorem State.finishFault_el2Aarch32 (s : State) (target : Target) (x : FaultRecord) :
    (s.finishFault target x).el2Aarch32 = s.el2Aarch32 := by cases target <;> rfl
@[simp] theorem State.finishFault_el3Aarch32 (s : State) (target : Target) (x : FaultRecord) :
    (s.finishFault target x).el3Aarch32 = s.el3Aarch32 := by cases target <;> rfl
@[simp] theorem State.finishFault_regs (s : State) (target : Target) (x : FaultRecord) :
    (s.finishFault target x).regs = s.regs := by cases target <;> rfl
@[simp] theorem State.finishFault_memS (s : State) (target : Target) (x : FaultRecord) :
    (s.finishFault target x).memS = s.memS := by cases target <;> rfl
@[simp] theorem State.finishFault_memNS (s : State) (target : Target) (x : FaultRecord) :
    (s.finishFault target x).memNS = s.memNS := by cases target <;> rfl
@[simp] theorem State.finishFault_requests (s : State) (target : Target) (x : FaultRecord) :
    (s.finishFault target x).requests = s.requests := by cases target <;> rfl
@[simp] theorem State.finishFault_phase (s : State) (target : Target) (x : FaultRecord) :
    (s.finishFault target x).phase = .idle := by cases target <;> rfl
@[simp] theorem State.finishFault_lastWalk (s : State) (target : Target) (x : FaultRecord) :
    (s.finishFault target x).lastWalk = s.lastWalk := by cases target <;> rfl
@[simp] theorem State.finishFault_tick (s : State) (target : Target) (x : FaultRecord) :
    (s.finishFault target x).tick = s.tick + 1 := by cases target <;> rfl

/-- A fault return adds one result, which carries the fault. -/
theorem State.finishFault_results (s : State) (target : Target) (x : FaultRecord) :
    ∃ ad, (s.finishFault target x).results = s.results ++ [ad] ∧ ad.fault = x := by
  cases target <;> exact ⟨_, rfl, rfl⟩

/-! ### The fields of the records -/

@[simp] theorem AddressDescriptor.isFault_mk (f : FaultRecord) (m : MemoryAttributes) (p : FullAddress) (v : Word) :
    AddressDescriptor.isFault ⟨f, m, p, v⟩ = (f.kind != .none) := rfl
theorem AddressDescriptor.isFault_def (ad : AddressDescriptor) : ad.isFault = (ad.fault.kind != .none) := rfl
@[simp] theorem descaddr_fault (u : Unknown) (w : Walk) : (descaddr u w).fault = noFault u := rfl
@[simp] theorem faultDescriptor_fault (u : Unknown) (f : FaultRecord) : (faultDescriptor u f).fault = f := rfl
@[simp] theorem noFault_kind (u : Unknown) : (noFault u).kind = .none := rfl
@[simp] theorem faultRecord_kind (k : FaultKind) (ip : PAddr) (l : Int) (a : AccType) (w ss wk : Bool) :
    (faultRecord k ip l a w ss wk).kind = k := rfl
@[simp] theorem alignmentFault_kind (u : Unknown) (a : AccType) (w ss : Bool) :
    (alignmentFault u a w ss).kind = .alignment := rfl
@[simp] theorem descaddr_isFault (u : Unknown) (w : Walk) : (descaddr u w).isFault = false := rfl
@[simp] theorem descaddr_paddress (u : Unknown) (w : Walk) : (descaddr u w).paddress = descriptorAddress w := rfl
@[simp] theorem descaddr_memattrs (u : Unknown) (w : Walk) : (descaddr u w).memattrs = w.memattrs := rfl
@[simp] theorem descriptorAddress_ns (w : Walk) : (descriptorAddress w).ns = w.nsTable := rfl

/-! ### `descend` -/

section
variable (w : Walk) (a : BitVec 36) (ns ro pv xn pxn : Bool)
@[simp] theorem descend_ipaddress : (descend w a ns ro pv xn pxn).ipaddress = w.ipaddress := rfl
@[simp] theorem descend_inputaddr : (descend w a ns ro pv xn pxn).inputaddr = w.inputaddr := rfl
@[simp] theorem descend_granule : (descend w a ns ro pv xn pxn).granule = w.granule := rfl
@[simp] theorem descend_inputsize : (descend w a ns ro pv xn pxn).inputsize = w.inputsize := rfl
@[simp] theorem descend_outputsize : (descend w a ns ro pv xn pxn).outputsize = w.outputsize := rfl
@[simp] theorem descend_level : (descend w a ns ro pv xn pxn).level = nextLevel w.level := rfl
@[simp] theorem descend_baseaddress :
    (descend w a ns ro pv xn pxn).baseaddress = nextTableBase a w.granule := rfl
@[simp] theorem descend_nsTable : (descend w a ns ro pv xn pxn).nsTable = (w.nsTable || ns) := rfl
@[simp] theorem descend_xnTable : (descend w a ns ro pv xn pxn).xnTable = (w.xnTable || xn) := rfl
@[simp] theorem descend_pxnTable : (descend w a ns ro pv xn pxn).pxnTable = (w.pxnTable || pxn) := rfl
@[simp] theorem descend_addrselecttop :
    (descend w a ns ro pv xn pxn).addrselecttop = addrselectbottom w.granule w.level - 1 := rfl
@[simp] theorem descend_singlepriv : (descend w a ns ro pv xn pxn).singlepriv = w.singlepriv := rfl
@[simp] theorem descend_reversedescriptors :
    (descend w a ns ro pv xn pxn).reversedescriptors = w.reversedescriptors := rfl
@[simp] theorem descend_memattrs : (descend w a ns ro pv xn pxn).memattrs = w.memattrs := rfl
end

end Sys2Proof.Machine
end

