-- ==== Sys2Proof/Laws/Ops.lean ====
section
/-! SUPPORT. One inversion lemma for each shared operation: if it answers a next state, then one of these
cases holds. -/

namespace Sys2Proof.Machine

/-- A descriptor is carried out only in a walk whose context is its row's. -/
theorem State.onDescriptor_next {s t : State} {i : Instr} {k : Request → Walk → Target → Result}
    (h : s.onDescriptor i k = .next t) :
    ∃ req w target d, s.phase = .walking req w target d ∧ fitsContext (walkContext w target) i = true ∧
      k req w target = .next t := by
  unfold State.onDescriptor at h
  split at h
  · rename_i req w target d hp
    split at h
    · exact ⟨req, w, target, d, hp, by assumption, h⟩
    · cases h
  · cases h
  · cases h

/-- A descriptor in a walk whose context is its row's is carried out. -/
theorem State.onDescriptor_of_fits {s : State} {i : Instr} {k : Request → Walk → Target → Result}
    {req : Request} {w : Walk} {target : Target} {d : AddressDescriptor}
    (hp : s.phase = .walking req w target d) (hf : fitsContext (walkContext w target) i = true) :
    s.onDescriptor i k = k req w target := by
  unfold State.onDescriptor
  rw [hp]
  simp [hf]

/-- A MAIR field is carried out only when an attribute is due; the record then has its attributes. -/
theorem State.onAttribute_next {s t : State} {spec : BitVec 2 → AccType → AttrSpec}
    (h : s.onAttribute spec = .next t) :
    ∃ req ip r sh index r', s.phase = .attr req ip r sh index ∧
      r' = { r with addrdesc := { r.addrdesc with
        memattrs := memAttrDefaults (s.unknown .s1Attr) (spec sh req.acctype) } } ∧
      (s.record r').afterStage1 req ((s.record r').stage1Checks req r' ip true) = .next t := by
  unfold State.onAttribute at h
  split at h
  · rename_i req ip r sh index hp
    exact ⟨req, ip, r, sh, index, _, hp, rfl, h⟩
  · cases h
  · cases h

/-- A MAIR field when an attribute is due. -/
theorem State.onAttribute_of_attr {s : State} {spec : BitVec 2 → AccType → AttrSpec} {req : Request} {ip : PAddr}
    {r : TLBRecord} {sh : BitVec 2} {index : BitVec 3} (hp : s.phase = .attr req ip r sh index) :
    s.onAttribute spec =
      let r' : TLBRecord := { r with addrdesc := { r.addrdesc with
        memattrs := memAttrDefaults (s.unknown .s1Attr) (spec sh req.acctype) } }
      (s.record r').afterStage1 req ((s.record r').stage1Checks req r' ip true) := by
  unfold State.onAttribute
  rw [hp]

/-- What stage 2 of an address can do: hand it on unchanged when stage 2 is off, end the call with a level 0
fault, or set up its walk. -/
theorem State.secondStage_next {s t : State} {req : Request} {s1 : AddressDescriptor} {outer : Option Walk}
    (h : s.secondStage req s1 outer = .next t) :
    s.twoStages = true ∧
      ((s.s2Enabled = false ∧ outer = none ∧ t = s.finish s1) ∨
       (∃ w, s.s2Enabled = false ∧ outer = some w ∧ t = s.atDescriptor req w .stage1 s1) ∨
       (∃ target k, s.s2Enabled = true ∧ s.s2WalkAssert = true ∧
          target = outer.elim (.access s1) (fun w => .table w s1) ∧
          s.openStage2 s1.paddress.physicaladdress = .error k ∧
          t = s.finishFault target (faultRecord k s1.paddress.physicaladdress 0 req.acctype req.iswrite true
            target.s2fs1walk)) ∨
       (∃ target w2, s.s2Enabled = true ∧ s.s2WalkAssert = true ∧
          target = outer.elim (.access s1) (fun w => .table w s1) ∧
          s.openStage2 s1.paddress.physicaladdress = .ok w2 ∧
          t = s.atDescriptor req w2 target (descaddr (s.unknown .descAddrS2) w2))) := by
  unfold State.secondStage at h
  split at h
  · cases h
  · rename_i h1
    refine ⟨by simpa using h1, ?_⟩
    split at h
    · rename_i h2
      have h2 : s.s2Enabled = false := by simpa using h2
      cases outer with
      | none => cases h; exact .inl ⟨h2, rfl, rfl⟩
      | some w => cases h; exact .inr (.inl ⟨w, h2, rfl, rfl⟩)
    · rename_i h2
      have h2 : s.s2Enabled = true := by simpa using h2
      split at h
      · cases h
      · rename_i h3
        have h3 : s.s2WalkAssert = true := by simpa using h3
        refine .inr (.inr ?_)
        cases outer with
        | none =>
          simp only at h
          split at h
          · rename_i k hk
            cases h
            exact .inl ⟨_, k, h2, h3, rfl, hk, rfl⟩
          · rename_i w2 hw
            cases h
            exact .inr ⟨_, w2, h2, h3, rfl, hw, rfl⟩
        | some w =>
          simp only at h
          split at h
          · rename_i k hk
            cases h
            exact .inl ⟨_, k, h2, h3, rfl, hk, rfl⟩
          · rename_i w2 hw
            cases h
            exact .inr ⟨_, w2, h2, h3, rfl, hw, rfl⟩

/-- A stage 1 walk at its next descriptor: it reads it directly, or stage 2 translates its address first. -/
theorem State.enterStage1_next {s t : State} {req : Request} {w : Walk} (h : s.enterStage1 req w = .next t) :
    ((s.cfg.haveEl2 = false ∨ s.isSecure = true ∨ s.el = .el2) ∧
        t = s.atDescriptor req w .stage1 (descaddr (s.unknown .descAddrS1) w)) ∨
      (s.cfg.haveEl2 = true ∧ s.isSecure = false ∧ s.el ≠ .el2 ∧
        s.secondStage req (descaddr (s.unknown .descAddrS1) w) (some w) = .next t) := by
  unfold State.enterStage1 at h
  simp only at h
  split at h
  · rename_i hc
    cases h
    refine .inl ⟨?_, rfl⟩
    simp only [Bool.or_eq_true, Bool.not_eq_true', beq_iff_eq] at hc
    rcases hc with (h | h) | h
    · exact .inr (.inl h)
    · exact .inr (.inr h)
    · exact .inl h
  · rename_i hc
    simp only [Bool.or_eq_true, Bool.not_eq_true', beq_iff_eq, not_or, Bool.not_eq_false, Bool.not_eq_true] at hc
    exact .inr ⟨hc.2, hc.1.1, hc.1.2, h⟩

/-- A walk at its next level. -/
theorem State.enterLevel_next {s t : State} {req : Request} {w : Walk} {target : Target}
    (h : s.enterLevel req w target = .next t) :
    (target = .stage1 ∧ s.enterStage1 req w = .next t) ∨
      (target ≠ .stage1 ∧ t = s.atDescriptor req w target (descaddr (s.unknown .descAddrS2) w)) := by
  cases target with
  | stage1 => exact .inl ⟨rfl, h⟩
  | access s1 => cases h; exact .inr ⟨nofun, rfl⟩
  | table outer s1 => cases h; exact .inr ⟨nofun, rfl⟩

/-- After stage 1: the call ends with its result, or stage 2 translates it. -/
theorem State.afterStage1_next {s t : State} {req : Request} {ad : AddressDescriptor}
    (h : s.afterStage1 req ad = .next t) :
    ((ad.isFault = true ∨ s.twoStages = false) ∧ t = s.finish ad) ∨
      (ad.isFault = false ∧ s.twoStages = true ∧ s.secondStage req ad none = .next t) := by
  unfold State.afterStage1 at h
  split at h
  · rename_i hc
    simp only [Bool.and_eq_true, Bool.not_eq_true'] at hc
    exact .inr ⟨hc.2, hc.1, h⟩
  · rename_i hc
    cases h
    refine .inl ⟨?_, rfl⟩
    cases hf : ad.isFault <;> cases ht : s.twoStages <;> simp_all

/-- The end of a stage 2 walk: the call ends, or the suspended stage 1 walk reads its descriptor. -/
theorem State.afterStage2Walk_next {s t : State} {req : Request} {w : Walk} {target : Target} {r : TLBRecord}
    (h : s.afterStage2Walk req w target r = .next t) :
    s.s2WalkAssert = true ∧
      ((∃ s1, target = .access s1 ∧
          t = (s.record r).finish (combineS1S2Desc (s.unknown .combine) s1
            ((s.record r).stage2Checks req r w.ipaddress target))) ∨
       (∃ outer s1 d, target = .table outer s1 ∧
          d = combineS1S2Desc (s.unknown .combine) s1 ((s.record r).stage2Checks req r w.ipaddress target) ∧
          ((d.isFault = true ∧ t = (s.record r).finishFault target d.fault) ∨
           (d.isFault = false ∧ t = (s.record r).atDescriptor req outer .stage1 d)))) := by
  unfold State.afterStage2Walk at h
  split at h
  · cases h
  · rename_i h1
    refine ⟨by simpa using h1, ?_⟩
    cases target with
    | stage1 => cases h
    | access s1 => cases h; exact .inl ⟨s1, rfl, rfl⟩
    | table outer s1 =>
      refine .inr ⟨outer, s1, _, rfl, rfl, ?_⟩
      simp only at h
      split at h
      · rename_i hf; cases h; exact .inl ⟨hf, rfl⟩
      · rename_i hf; cases h; exact .inr ⟨by simpa using hf, rfl⟩

/-- A stage 1 walk that opens. -/
theorem State.stage1On_next {s t : State} {req : Request} (h : s.stage1On req = .next t) :
    (∃ k, s.openStage1 req.vaddress (s.unknown .firstStage).ipaddress = .error k ∧
        t = s.finishFault .stage1
          (faultRecord k (s.unknown .firstStage).ipaddress 0 req.acctype req.iswrite false false)) ∨
      (∃ w, s.openStage1 req.vaddress (s.unknown .firstStage).ipaddress = .ok w ∧ s.enterStage1 req w = .next t) := by
  unfold State.stage1On at h
  simp only at h
  split at h
  · rename_i k hk; cases h; exact .inl ⟨k, hk, rfl⟩
  · rename_i w hw; exact .inr ⟨w, hw, h⟩

/-- Stage 1 off. -/
theorem State.stage1Off_next {s t : State} {req : Request} (h : s.stage1Off req = .next t) :
    (s.s1OffInRange req.vaddress = false ∧
        t = s.finishFault .stage1
          (faultRecord .addressSize (s.unknown .s1Off).ipaddress 0 req.acctype req.iswrite false false)) ∨
      (s.s1OffInRange req.vaddress = true ∧
        (s.record (s.s1OffRecord req)).afterStage1 req
          ((s.record (s.s1OffRecord req)).stage1Checks req (s.s1OffRecord req) (s.unknown .firstStage).ipaddress
            false) = .next t) := by
  unfold State.stage1Off at h
  split at h
  · rename_i hc; cases h; exact .inl ⟨by simpa using hc, rfl⟩
  · rename_i hc; exact .inr ⟨by simpa using hc, h⟩

/-- Combining with a stage 2 fault (R275). -/
theorem combineS1S2Desc_fault (u : Unknown) {s1 s2 : AddressDescriptor} (h1 : s1.isFault = false)
    (h2 : s2.isFault = true) : combineS1S2Desc u s1 s2 = s2 := by
  unfold combineS1S2Desc
  simp [h1, h2]

/-- Combining two stages that did not fault (R275). -/
theorem combineS1S2Desc_ok (u : Unknown) {s1 s2 : AddressDescriptor} (h1 : s1.isFault = false)
    (h2 : s2.isFault = false) :
    combineS1S2Desc u s1 s2 =
      { fault := noFault u, memattrs := memAttrDefaults u (combineSpec s1.memattrs s2.memattrs),
        paddress := s2.paddress, vaddress := u.vaddress } := by
  unfold combineS1S2Desc
  simp [h1, h2]

/-- A combination after a stage 1 that did not fault has the stage 2 address (R275). -/
theorem combineS1S2Desc_paddress {u : Unknown} {s1 s2 : AddressDescriptor} (h1 : s1.isFault = false) :
    (combineS1S2Desc u s1 s2).paddress = s2.paddress := by
  cases h2 : s2.isFault with
  | true => rw [combineS1S2Desc_fault u h1 h2]
  | false => rw [combineS1S2Desc_ok u h1 h2]

/-- The checks after a stage 2 walk leave the address alone (R166 to R169). -/
@[simp] theorem State.stage2Checks_paddress (s : State) (req : Request) (r : TLBRecord) (ip : PAddr) (target : Target) :
    (s.stage2Checks req r ip target).paddress = r.addrdesc.paddress := by
  unfold State.stage2Checks State.instructionDevice
  simp only
  split_ifs <;> (try rfl) <;> split <;> rfl

/-- The checks after stage 1 leave the address alone (R136 to R138). -/
@[simp] theorem State.stage1Checks_paddress (s : State) (req : Request) (r : TLBRecord) (ip : PAddr) (check : Bool) :
    (s.stage1Checks req r ip check).paddress = r.addrdesc.paddress := by
  unfold State.stage1Checks State.instructionDevice
  simp only
  split_ifs <;> (try rfl) <;> split <;> rfl

/-- Taking a request. -/
theorem State.takeRequest_next {s t : State} (h : s.takeRequest = .next t) :
    (s.requests = [] ∧ t = s) ∨
      (∃ req rest, s.requests = req :: rest ∧
        (({ s with requests := rest } : State).stage1On (s.extendRequest req) = .next t ∨
         ({ s with requests := rest } : State).stage1Off (s.extendRequest req) = .next t)) := by
  unfold State.takeRequest at h
  split at h
  · rename_i hr; cases h; exact .inl ⟨hr, rfl⟩
  · rename_i req rest hr
    refine .inr ⟨req, rest, hr, ?_⟩
    simp only [State.fullTranslate] at h
    split at h
    · cases h
    · split at h
      · exact .inl h
      · exact .inr h

/-- What opening a walk can answer. -/
theorem openWalk_ok {pamax : PaSize} {p : WalkParams} {attrs : MemoryAttributes} {ip : PAddr} {ia : Word}
    {isz : Nat} {found : Bool} {l0 : Int} {w : Walk} (h : openWalk pamax p attrs ip ia isz found l0 = .ok w) :
    found = true ∧ p.disabled = false ∧ ∃ l, levelOfInt l0 = some l ∧
      addressTooWide (p.baseregister.setWidth 48) (PaSize.limit (psSize p.ps) pamax) = false ∧
      w = { ipaddress := ip, inputaddr := ia, granule := p.granule, inputsize := isz,
            outputsize := PaSize.limit (psSize p.ps) pamax, level := l,
            baseaddress := tableBase p.baseregister isz p.granule l, nsTable := !p.lookupsecure, apTable := 0,
            xnTable := false, pxnTable := false, addrselecttop := isz - 1,
            reversedescriptors := p.reversedescriptors, singlepriv := p.singlepriv, memattrs := attrs } := by
  unfold openWalk at h
  split at h
  · rename_i l hb hl
    simp only at h
    split at h
    · cases h
    · rename_i hw
      cases h
      simp only [Bool.and_eq_true, Bool.not_eq_true'] at hb
      exact ⟨hb.1, hb.2, l, hl, by simpa using hw, rfl⟩
  · cases h
  · cases h

/-- A step takes a request or carries out the word fetched. -/
theorem step_next {s t : State} (h : step s = .next t) :
    (s.phase = .idle ∧ s.takeRequest = .next t) ∨ (∃ i, s.fetched = some (.ok i) ∧ exec i s = .next t) := by
  unfold step at h
  split at h
  · rename_i hf
    refine .inl ⟨?_, h⟩
    unfold State.fetched at hf
    split at hf
    · assumption
    · cases hf
    · cases hf
  · rename_i i hf
    exact .inr ⟨i, hf, h⟩
  · cases h

end Sys2Proof.Machine
end

