-- ==== Sys2Proof/Laws/PerInstr.lean ====
section
/-! SUPPORT. Statements about every row of spec/opcode_table.json, one lemma for each constructor of
`Instr`. -/

namespace Sys2Proof.Laws.EncodedBitsMatchRow

open Sys2Proof

/-- The `mask` of the term's row: its fixed bits. -/
def rowMask : Instr → Word
  | .descInvalid => 0x1
  | .descReservedL3 => 0x3
  | .descBlockNotAllowed => 0x3
  | .descTableS1El10 _ => 0x3
  | .descTableS1El2El3 _ => 0x3
  | .descTableS2 _ => 0x3
  | .descBlockS1 _ => 0x3
  | .descPageS1 _ => 0x3
  | .descBlockS2 _ => 0x3
  | .descPageS2 _ => 0x3
  | .mairDeviceNGnRnE => 0xff
  | .mairDeviceNGnRE => 0xff
  | .mairDeviceNGRE => 0xff
  | .mairDeviceGRE => 0xff
  | .mairReservedDevice01 _ => 0xf3
  | .mairReservedDevice10 _ => 0xf3
  | .mairReservedDevice11 _ => 0xf3
  | .mairReservedNormal _ => 0x0f
  | .mairNormal _ _ => 0x00

/-- The `match` of the term's row: what its fixed bits are. -/
def rowMatch : Instr → Word
  | .descInvalid => 0x0
  | .descReservedL3 => 0x1
  | .descBlockNotAllowed => 0x1
  | .descTableS1El10 _ => 0x3
  | .descTableS1El2El3 _ => 0x3
  | .descTableS2 _ => 0x3
  | .descBlockS1 _ => 0x1
  | .descPageS1 _ => 0x3
  | .descBlockS2 _ => 0x1
  | .descPageS2 _ => 0x3
  | .mairDeviceNGnRnE => 0x00
  | .mairDeviceNGnRE => 0x04
  | .mairDeviceNGRE => 0x08
  | .mairDeviceGRE => 0x0c
  | .mairReservedDevice01 _ => 0x01
  | .mairReservedDevice10 _ => 0x02
  | .mairReservedDevice11 _ => 0x03
  | .mairReservedNormal _ => 0x00
  | .mairNormal _ _ => 0x00

/-- The encoder writes the fixed bits of the term's row (R114), and nothing above bit 7 for a MAIR field. -/
def Statement (i : Instr) : Prop :=
  encodeWord i &&& rowMask i = rowMatch i ∧ (i.isMair = true → encodeWord i < 256#64)

/-- The low two bits of a word put together with two low bits. -/
theorem low_two (x : BitVec 62) (y : BitVec 2) : (x ++ y : Word) &&& 3#64 = y.setWidth 64 := by
  apply BitVec.eq_of_getLsbD_eq
  intro k hk
  rw [BitVec.getLsbD_and, BitVec.getLsbD_append, BitVec.getLsbD_setWidth]
  by_cases h : k < 2
  · have : k = 0 ∨ k = 1 := by omega
    rcases this with rfl | rfl <;> simp
  · have h3 : (3#64).getLsbD k = false := by
      have above : ∀ n : Fin 64, 2 ≤ n.val → (3#64).getLsbD n.val = false := by decide
      exact above ⟨k, hk⟩ (Nat.not_lt.mp h)
    rw [h3, Bool.and_false, BitVec.getLsbD_of_ge y k (by omega), Bool.and_false]

theorem descInvalid : Statement .descInvalid := by unfold Statement; decide
theorem descReservedL3 : Statement .descReservedL3 := by unfold Statement; decide
theorem descBlockNotAllowed : Statement .descBlockNotAllowed := by unfold Statement; decide
theorem descTableS1El10 (t : TableS1El10) : Statement (.descTableS1El10 t) := ⟨low_two _ _, nofun⟩
theorem descTableS1El2El3 (t : TableS1El2El3) : Statement (.descTableS1El2El3 t) := ⟨low_two _ _, nofun⟩
theorem descTableS2 (a : BitVec 36) : Statement (.descTableS2 a) := ⟨low_two _ _, nofun⟩
theorem descBlockS1 (f : LeafS1) : Statement (.descBlockS1 f) := ⟨low_two _ _, nofun⟩
theorem descPageS1 (f : LeafS1) : Statement (.descPageS1 f) := ⟨low_two _ _, nofun⟩
theorem descBlockS2 (f : LeafS2) : Statement (.descBlockS2 f) := ⟨low_two _ _, nofun⟩
theorem descPageS2 (f : LeafS2) : Statement (.descPageS2 f) := ⟨low_two _ _, nofun⟩
theorem mairDeviceNGnRnE : Statement .mairDeviceNGnRnE := by unfold Statement; decide
theorem mairDeviceNGnRE : Statement .mairDeviceNGnRE := by unfold Statement; decide
theorem mairDeviceNGRE : Statement .mairDeviceNGRE := by unfold Statement; decide
theorem mairDeviceGRE : Statement .mairDeviceGRE := by unfold Statement; decide
theorem mairReservedDevice01 (d : BitVec 2) : Statement (.mairReservedDevice01 d) := by revert d; unfold Statement; decide
theorem mairReservedDevice10 (d : BitVec 2) : Statement (.mairReservedDevice10 d) := by revert d; unfold Statement; decide
theorem mairReservedDevice11 (d : BitVec 2) : Statement (.mairReservedDevice11 d) := by revert d; unfold Statement; decide
theorem mairReservedNormal (o : BitVec 4) : Statement (.mairReservedNormal o) := by revert o; unfold Statement; decide
theorem mairNormal (o i : BitVec 4) : Statement (.mairNormal o i) := by revert o i; unfold Statement; decide

end Sys2Proof.Laws.EncodedBitsMatchRow
end

