-- ==== Sys2Proof/Laws/Setup.lean ====
section
/-! SUPPORT. The numbers a walk is set up with: ranges, starting levels, table bases, alignment. -/

namespace Sys2Proof.Machine

/-- The two values of `AddrTop` (R271). -/
theorem State.addrTop_cases (s : State) (v : Word) : s.addrTop v = 55 ∨ s.addrTop v = 63 := by
  unfold State.addrTop
  cases s.el <;> simp only <;> split_ifs <;> simp

/-- The implemented size is between 32 and 48 bits (R6). -/
theorem PaSize.bits_bounds (p : PaSize) : 32 ≤ PaSize.bits p ∧ PaSize.bits p ≤ 48 := by cases p <;> decide

/-- The range check as numbers (R187, R194). -/
theorem inRange_iff (upper : Bool) (v : Word) {top n : Nat} (h : 48 ≤ top) :
    inRange upper v top n = true ↔
      25 ≤ n ∧ n ≤ 48 ∧
        if upper = true then 2 ^ (top + 1) - 2 ^ n ≤ v.toNat % 2 ^ (top + 1) else v.toNat % 2 ^ (top + 1) < 2 ^ n := by
  unfold inRange
  by_cases hn : n ≤ 48
  · cases upper <;>
      simp [isZeroSlice_iff v (show n ≤ top + 1 by omega), isOnesSlice_iff v (show n ≤ top + 1 by omega), and_assoc]
  · simp [hn]

/-- The stage 1 starting level of a legal size, by cases (R192). -/
theorem startLevelS1_cases : ∀ (g : Granule) (k : Fin 24), ∃ l : Level,
    levelOfInt (startLevelS1 g ((k.val + 25 : Nat))) = some l ∧ addrselectbottom g l < k.val + 25 ∧
      k.val + 25 ≤ addrselectbottom g l + stride g := by
  intro g
  cases g <;> decide

/-- The stage 1 starting level of a legal size is a level whose index slice has 1 to `stride` bits (R192). -/
theorem startLevelS1_spec (g : Granule) {n : Nat} (h1 : 25 ≤ n) (h2 : n ≤ 48) : ∃ l : Level,
    levelOfInt (startLevelS1 g n) = some l ∧ addrselectbottom g l < n ∧ n ≤ addrselectbottom g l + stride g := by
  obtain ⟨l, h⟩ := startLevelS1_cases g ⟨n - 25, by omega⟩
  simp only [show n - 25 + 25 = n by omega] at h
  exact ⟨l, h⟩

/-- The stage 2 configuration checks agree with the table of R198, by cases. -/
theorem startLevelS2_cases (g : Granule) (sl0 : BitVec 2) (k : Fin 24) (pamax : PaSize) :
    (levelSupported g (startLevelS2 g sl0) pamax && startSizeOk g (startLevelS2 g sl0) (k.val + 25)) =
        (s2StartLevel g sl0 (k.val + 25) (PaSize.bits pamax)).isSome ∧
      ∀ l, s2StartLevel g sl0 (k.val + 25) (PaSize.bits pamax) = some l →
        levelOfInt (startLevelS2 g sl0) = some l ∧ addrselectbottom g l < k.val + 25 ∧
          addrselectbottom g l < PaSize.bits pamax := by
  cases g <;> cases pamax <;> (revert sl0 k; decide)

/-- The stage 2 configuration checks agree with the table of R198 (R195, R196). -/
theorem startLevelS2_spec (g : Granule) (sl0 : BitVec 2) {n : Nat} (pamax : PaSize) (h1 : 25 ≤ n) (h2 : n ≤ 48) :
    (levelSupported g (startLevelS2 g sl0) pamax && startSizeOk g (startLevelS2 g sl0) n) =
        (s2StartLevel g sl0 n (PaSize.bits pamax)).isSome ∧
      ∀ l, s2StartLevel g sl0 n (PaSize.bits pamax) = some l →
        levelOfInt (startLevelS2 g sl0) = some l ∧ addrselectbottom g l < n ∧
          addrselectbottom g l < PaSize.bits pamax := by
  have h := startLevelS2_cases g sl0 ⟨n - 25, by omega⟩ pamax
  simp only [show n - 25 + 25 = n by omega] at h
  exact h

/-- The sizes R197 gives for a legal input size. -/
theorem State.stage2Size_bounds (s : State) (u : Unknown) {n : Nat} (h1 : 25 ≤ n) (h2 : n ≤ 48) :
    25 ≤ (s.stage2Size u n).2.1 ∧ (s.stage2Size u n).2.1 ≤ 48 ∧
      ((s.stage2Size u n).1 = (s.stage2Size u n).2.1 ∨ (s.stage2Size u n).1 = PaSize.bits s.cfg.pamax) := by
  have hp := PaSize.bits_bounds s.cfg.pamax
  unfold State.stage2Size
  simp only
  split
  · split <;> simp <;> omega
  · simp
    omega

/-- The table base (R203) as a number. -/
theorem tableBase_eq (b : Word) (n : Nat) (g : Granule) (l : Level) :
    tableBase b n g l =
      BitVec.ofNat 48 (b.toNat % 2 ^ 48 / 2 ^ (3 + n - addrselectbottom g l) * 2 ^ (3 + n - addrselectbottom g l)) := by
  apply BitVec.eq_of_toNat_eq
  unfold tableBase
  rw [clearLow_toNat, BitVec.toNat_setWidth, BitVec.toNat_ofNat]
  exact (Nat.mod_eq_of_lt (Nat.lt_of_le_of_lt (Nat.div_mul_le_self _ _) (Nat.mod_lt _ (by decide)))).symm

/-- The base register check (R202) as numbers. -/
theorem baseTooWide_iff (b : Word) (o : PaSize) :
    addressTooWide (b.setWidth 48) o = true ↔ 2 ^ PaSize.bits o ≤ b.toNat % 2 ^ 48 := by
  rw [addressTooWide_iff, BitVec.toNat_setWidth]

/-- The bounds of `addrselectbottom`. -/
theorem addrselectbottom_ge (g : Granule) (l : Level) : 12 ≤ addrselectbottom g l := by revert l; cases g <;> decide

/-- Where a block or page is allowed its offset is at most 30 bits (R219). -/
theorem addrselectbottom_le (g : Granule) (l : Level) (h : firstblocklevel g ≤ l.val) : addrselectbottom g l ≤ 30 := by
  revert l
  cases g <;> decide

/-- One level down there are `stride` fewer offset bits (R206, R215). -/
theorem addrselectbottom_next (g : Granule) (l : Level) (h : l ≠ 3) :
    addrselectbottom g l = addrselectbottom g (nextLevel l) + stride g := by
  revert l
  cases g <;> decide

/-- The next level as a number (R215). -/
theorem nextLevel_val (l : Level) (h : l ≠ 3) : (nextLevel l).val = l.val + 1 := by revert l; decide

/-! ### Alignment (R69) -/

theorem aligned8_iff (a : PAddr) : aligned8 a = true ↔ a.toNat % 8 = 0 := by
  unfold aligned8
  rw [beq_iff_eq, ← BitVec.toNat_inj, BitVec.extractLsb'_toNat]
  simp

theorem aligned8_clearLow (v : PAddr) {k : Nat} (h : 3 ≤ k) : aligned8 (clearLow v k) = true := by
  rw [aligned8_iff, clearLow_toNat]
  obtain ⟨j, rfl⟩ := Nat.exists_eq_add_of_le h
  rw [Nat.pow_add, Nat.mul_left_comm]
  exact Nat.mul_mod_right 8 _

theorem aligned8_or {a b : PAddr} (ha : aligned8 a = true) (hb : aligned8 b = true) : aligned8 (a ||| b) = true := by
  unfold aligned8 at *
  rw [beq_iff_eq] at *
  rw [BitVec.extractLsb'_or, ha, hb]
  rfl

/-- A descriptor address is 8-byte aligned when its table is. -/
theorem aligned8_entryAddress (w : Walk) (h : aligned8 w.baseaddress = true) : aligned8 (entryAddress w) = true := by
  apply aligned8_or h
  rw [aligned8_iff, BitVec.toNat_ofNat]
  omega

/-- An output address is 8-byte aligned when the input address is. -/
theorem aligned8_outputAddress (a : BitVec 36) (v : Word) {n : Nat} (h : 3 ≤ n) (hn : n ≤ 48)
    (hv : aligned8 (v.setWidth 48) = true) : aligned8 (outputAddress a v n) = true := by
  apply aligned8_or (aligned8_clearLow _ h)
  rw [aligned8_iff] at *
  rw [lowBits_toNat v hn]
  rw [BitVec.toNat_setWidth] at hv
  obtain ⟨j, rfl⟩ := Nat.exists_eq_add_of_le h
  rw [mod_pow_slice]
  omega

/-! ### Walks that open -/

/-- A stage 1 walk that opens is well formed, and starts in the Secure space exactly in a Secure regime. -/
theorem State.openStage1_ok {s : State} {va : Word} {ip : PAddr} {w : Walk} (h : s.openStage1 va ip = .ok w) :
    walkOk w = true ∧ w.nsTable = !(s.paramsStage1 va).lookupsecure := by
  obtain ⟨hf, _, l, hl, _, hw⟩ := openWalk_ok h
  have ht : 48 ≤ s.addrTop va := by rcases s.addrTop_cases va with h | h <;> omega
  rw [inRange_iff _ _ ht] at hf
  obtain ⟨l', h1, h2, _⟩ := startLevelS1_spec (s.paramsStage1 va).granule hf.1 hf.2.1
  rw [h1] at hl
  cases hl
  subst hw
  refine ⟨?_, rfl⟩
  simp only [walkOk, Bool.and_eq_true, decide_eq_true_eq]
  exact ⟨⟨⟨⟨hf.1, hf.2.1⟩, by omega⟩, by omega⟩, aligned8_clearLow _ (by omega)⟩

/-- A stage 2 walk that opens is well formed, in the Non-secure space, over the intermediate address. -/
theorem State.openStage2_ok {s : State} {ip : PAddr} {w : Walk} (h : s.openStage2 ip = .ok w) :
    walkOk w = true ∧ w.nsTable = true ∧ w.inputaddr = ip.setWidth 64 := by
  obtain ⟨hf, _, l, hl, _, hw⟩ := openWalk_ok h
  simp only [Bool.and_eq_true] at hf
  obtain ⟨⟨⟨hr, hs⟩, _⟩, hz⟩ := hf
  rw [inRange_iff _ _ (by decide)] at hr
  have hsz := s.stage2Size_bounds (s.unknown .walkS2) hr.1 hr.2.1
  have hp := PaSize.bits_bounds s.cfg.pamax
  obtain ⟨c1, c2⟩ := startLevelS2_spec s.paramsStage2.granule s.regs.vtcrEl2.sl0 s.cfg.pamax hsz.1 hsz.2.1
  rw [hs, hz] at c1
  obtain ⟨l', hl'⟩ := Option.isSome_iff_exists.mp c1.symm
  obtain ⟨d1, d2, d3⟩ := c2 l' hl'
  rw [d1] at hl
  cases hl
  subst hw
  refine ⟨?_, rfl, rfl⟩
  simp only [walkOk, Bool.and_eq_true, decide_eq_true_eq]
  exact ⟨⟨⟨⟨by omega, by omega⟩, by omega⟩, by omega⟩, aligned8_clearLow _ (by omega)⟩

/-- A table descriptor leaves a well-formed walk (R213, R215). -/
theorem walkOk_descend {w : Walk} (h : walkOk w = true) (hl : w.level ≠ 3) (a : BitVec 36) (ns ro pv xn pxn : Bool) :
    walkOk (descend w a ns ro pv xn pxn) = true := by
  simp only [walkOk, Bool.and_eq_true, decide_eq_true_eq] at *
  have hb := addrselectbottom_next w.granule w.level hl
  have hs : 1 ≤ stride w.granule := by cases w.granule <;> decide
  simp only [descend_inputsize, descend_addrselecttop, descend_granule, descend_level, descend_baseaddress]
  refine ⟨⟨⟨h.1.1.1, by omega⟩, by omega⟩, aligned8_clearLow _ ?_⟩
  cases w.granule <;> decide

end Sys2Proof.Machine
end

