-- ==== Sys2Proof/Tests/Slice0.lean ====
section
/-! SUPPORT. Checks of the model against words and results written out from the spec (the source of each is
named), and for each statement with hypotheses a concrete state that meets them. -/

namespace Sys2Proof.Tests

open Sys2Proof Sys2Proof.Machine

/-! ### Well-formedness refuses what is no word of its row (R247, R249) -/

theorem test_wf_refuses_reserved_normal_zero : (Instr.mairReservedNormal 0).wf = false := by decide
theorem test_wf_refuses_normal_outer_zero : (Instr.mairNormal 0 5).wf = false := by decide
theorem test_wf_refuses_normal_inner_zero : (Instr.mairNormal 5 0).wf = false := by decide

/-! ### Decoding, every constructor: words written out from spec/30_encoding.md and spec/opcode_table.json -/

def el10 (l : Level) : DescContext := { level := l, stage := .s1El10, granule := .small }
def el2 (l : Level) : DescContext := { level := l, stage := .s1El2El3, granule := .mid }
def stage2 (l : Level) : DescContext := { level := l, stage := .s2, granule := .small }

/-- R91: '00' and '10' are invalid whatever the other bits. -/
theorem test_decode_invalid :
    decodeDescriptor (el10 3) 0xFFFFFFFFFFFFFFFE = .descInvalid ∧ decodeDescriptor (stage2 0) 0 = .descInvalid := by decide
/-- R91: '01' at level 3. -/
theorem test_decode_reserved_l3 : decodeDescriptor (stage2 3) 0x0000000090000705 = .descReservedL3 := by decide
/-- R94: '01' at level 0 (4KB) and level 1 (16KB). -/
theorem test_decode_block_not_allowed :
    decodeDescriptor (el10 0) 0x0000000090000705 = .descBlockNotAllowed ∧
      decodeDescriptor (el2 1) 0x000000400000060D = .descBlockNotAllowed := by decide
/-- R93: 10100 0..0 address 0x200000 0..0 11, the table of program P4. -/
theorem test_decode_table_el10 :
    decodeDescriptor (el10 2) 0xA000000000200003 =
      .descTableS1El10 { ns := true, apRo := false, apPriv := true, xn := false, pxn := false, addr := 0x200 } := by
  decide
/-- R93, R214: bits [62:59] set, the table of program P5; bits [61] and [59] are not read. -/
theorem test_decode_table_el2 :
    decodeDescriptor (el2 1) 0x7800000001004003 =
      .descTableS1El2El3 { ns := false, apRo := true, xn := true, addr := 0x1004 } := by decide
/-- R214: bits [63:59] of a stage 2 table are not read. -/
theorem test_decode_table_s2 : decodeDescriptor (stage2 1) 0xF800000080011003 = .descTableS2 0x80011 := by decide
/-- R94, R95: the block of program P1. -/
theorem test_decode_block_s1 :
    decodeDescriptor (el10 2) 0x0000000090000401 =
      .descBlockS1 { xn := false, pxn := false, contiguous := false, addr := 0x90000, nG := false, af := true, sh := 0b00,
                     ap := 0b00, ns := false, attrIndx := 0 } := by decide
/-- R95: the page of program P1. -/
theorem test_decode_page_s1 :
    decodeDescriptor (el10 3) 0x0060000012345F47 =
      .descPageS1 { xn := true, pxn := true, contiguous := false, addr := 0x12345, nG := true, af := true, sh := 0b11,
                    ap := 0b01, ns := false, attrIndx := 0b001 } := by decide
/-- R95, R227: the block of program P3. -/
theorem test_decode_block_s2 :
    decodeDescriptor (stage2 1) 0x00000000C000077D =
      .descBlockS2 { xn := false, pxn := false, contiguous := false, addr := 0xC0000, nG := false, af := true, sh := 0b11,
                     s2ap := 0b01, memAttr := 0b1111 } := by decide
/-- R95, R227: the page of program P3. -/
theorem test_decode_page_s2 :
    decodeDescriptor (stage2 3) 0x00000000900027FF =
      .descPageS2 { xn := false, pxn := false, contiguous := false, addr := 0x90002, nG := false, af := true, sh := 0b11,
                    s2ap := 0b11, memAttr := 0b1111 } := by decide
/-- R67, R209: the big-endian block of program P2, as its eight bytes. -/
theorem test_decode_big_endian :
    decode (.descriptor true { level := 2, stage := .s1El10, granule := .large })
        [0x00, 0x60, 0x00, 0x00, 0xA0, 0x00, 0x0E, 0x45] =
      .ok (.descBlockS1 { xn := true, pxn := true, contiguous := false, addr := 0xA0000, nG := true, af := true,
                          sh := 0b10, ap := 0b01, ns := false, attrIndx := 0b001 }) := by decide
/-- A descriptor is eight bytes, a MAIR field one: other lengths are refused by name. -/
theorem test_decode_wrong_length :
    decode (.descriptor false (el10 3)) [1, 2, 3] = .error .notEightBytes ∧ decode .mair [] = .error .notOneByte := by decide
/-- R109, R248: the Device encodings. -/
theorem test_decode_mair_device :
    decodeMair 0x00 = .mairDeviceNGnRnE ∧ decodeMair 0x04 = .mairDeviceNGnRE ∧ decodeMair 0x08 = .mairDeviceNGRE ∧
      decodeMair 0x0C = .mairDeviceGRE := by decide
/-- R247: the reserved encodings. -/
theorem test_decode_mair_reserved :
    decodeMair 0x01 = .mairReservedDevice01 0b00 ∧ decodeMair 0x06 = .mairReservedDevice10 0b01 ∧
      decodeMair 0x0F = .mairReservedDevice11 0b11 ∧ decodeMair 0x40 = .mairReservedNormal 0b0100 := by decide
/-- R249: outer [7:4], inner [3:0]. -/
theorem test_decode_mair_normal : decodeMair 0x4F = .mairNormal 0b0100 0b1111 ∧ decodeMair 0xFF = .mairNormal 0xF 0xF := by
  decide

/-! ### Small states -/

/-- An implementation with every choice fixed. -/
def impl (haveEl2 : Bool) : Implementation where
  pamax := .bits40
  haveEl2 := haveEl2
  haveEl3 := false
  secureWithoutEl3 := false
  impdefContigFault := true
  cuTszMax := .fixed .fault
  cuTszMin := .fixed .force
  cuS2InputsizePamax := .fixed .forceNoSlCheck
  cuInstrDevice := .fixed .fault
  cuMairBits := .fixed (.device .gre)

/-- Non-secure EL1 of program P1 (with EL2, stage 2 off, when `haveEl2`). -/
def nsEl1 (haveEl2 : Bool) : State :=
  { State.reset with
    cfg := impl haveEl2
    el := .el1
    regs :=
      { Registers.reset with
        sctlrEl1 := { m := true, i := true, ee := false, c := true, wxn := false }
        tcrEl1 := { TcrEl1.reset with t0sz := 25, ips := 0b010, t1sz := 25, tg1 := 0b10, epd1 := true }
        ttbr0El1 := 0x80000000
        mairEl1 := 0x000000000044FF04 } }

/-- The state of program P3: stage 2 on. -/
def twoStage : State :=
  let s := nsEl1 true
  { s with
    regs :=
      { s.regs with
        hcrEl2 := { s.regs.hcrEl2 with vm := true }
        vtcrEl2 := { s.regs.vtcrEl2 with t0sz := 24, sl0 := 1, ps := 0b010 }
        vttbrEl2 := 0x80000000 } }

/-- A data access to `va`. -/
def req (va : Word) (write aligned : Bool) : Request where
  vaddress := va
  acctype := .normal
  iswrite := write
  wasaligned := aligned
  size := 8

/-- An instruction fetch. -/
def fetch (va : Word) : Request := { req va false true with acctype := .ifetch }

/-- A walk with the 4KB granule at level `l`, over `va`. -/
def walk (va : Word) (l : Level) (single : Bool) : Walk where
  ipaddress := 0x77
  inputaddr := va
  granule := .small
  inputsize := 39
  outputsize := .bits40
  level := l
  baseaddress := 0x80000000
  nsTable := true
  apTable := 0
  xnTable := false
  pxnTable := false
  addrselecttop := addrselectbottom .small l + 8
  reversedescriptors := false
  singlepriv := single
  memattrs := (placeWalk true).memattrs

/-- A descriptor without a fault. -/
def good : AddressDescriptor where
  fault := (placeRecord true).addrdesc.fault
  memattrs := (placeWalk true).memattrs
  paddress := { physicaladdress := 0x80000008, ns := true }
  vaddress := 0

/-- `s` at a descriptor of the walk `w`. -/
def reading (s : State) (r : Request) (w : Walk) (t : Target) : State := { s with phase := .walking r w t good }

/-- `s` at a MAIR byte, after a page with the permissions `ap`. -/
def decoding (s : State) (r : Request) (ap : BitVec 3) : State :=
  { s with phase := .attr r 0x77 { placeRecord true with perms := { ap := ap, xn := true, pxn := true } } 0b11 1 }

/-- The space and address the next step reads. -/
def nextRead : Result → Option (Bool × PAddr)
  | .next t =>
    match t.phase with
    | .walking _ _ _ d => some (d.paddress.ns, d.paddress.physicaladdress)
    | .attr _ _ _ _ _ => none
    | .idle => none
  | .fault _ => none
  | .refused _ => none

/-- The latest result: its fault's kind, level, `write`, `secondstage`, `s2fs1walk`. -/
def fault : Result → Option (FaultKind × Int × Bool × Bool × Bool)
  | .next t =>
    t.results.getLast?.map fun d =>
      (d.fault.kind, d.fault.level, d.fault.write, d.fault.secondstage, d.fault.s2fs1walk)
  | .fault _ => none
  | .refused _ => none

/-- The latest result: whether it is a fault, its address and memory type. -/
def output : Result → Option (Bool × FullAddress × MemType × Bool)
  | .next t => t.results.getLast?.map fun d => (d.isFault, d.paddress, d.memattrs.memtype, d.memattrs.outershareable)
  | .fault _ => none
  | .refused _ => none

/-- The record on its way to the MAIR byte: address, space, permissions, block size. -/
def record : Result → Option (PAddr × Bool × Permissions × Int)
  | .next t =>
    match t.phase with
    | .attr _ _ r _ _ =>
      some (r.addrdesc.paddress.physicaladdress, r.addrdesc.paddress.ns, r.perms, r.blocksize)
    | .walking _ _ _ _ => none
    | .idle => none
  | .fault _ => none
  | .refused _ => none

/-! ### One step of each row; the expected values are those of spec/95_test_vectors.md, programs P1, P3, P5 -/

/-- R210: the current level. -/
theorem test_invalid_faults :
    (fault (exec .descInvalid (reading (nsEl1 false) (req 0 false true) (walk 0 3 false) .stage1))).map Prod.fst =
      some .translation := by decide
/-- R210, at stage 2 of a descriptor fetch: level 3, a write, both stage 2 marks. -/
theorem test_reserved_l3_faults :
    fault (exec .descReservedL3
        (reading twoStage (req 0 true true) (walk 0 3 true) (.table (walk 0 1 false) good))) =
      some (.translation, 3, true, true, true) := by decide
/-- R217. -/
theorem test_block_not_allowed_faults :
    fault (exec .descBlockNotAllowed (reading (nsEl1 false) (req 0 false true) (walk 0 0 false) .stage1)) =
      some (.translation, 0, false, false, false) := by decide
/-- P1: the level 1 table of address 0x40203ABC leads to the descriptor at 0x80001008. -/
theorem test_table_el10 :
    nextRead (exec (decodeDescriptor (el10 1) 0x0000000080001003)
        (reading (nsEl1 false) (req 0x40203ABC false true) (walk 0x40203ABC 1 false) .stage1)) =
      some (true, 0x80001008) := by decide
/-- P3: the level 1 stage 1 table; the stage 2 walk of its address 0x10000 starts at level 1, 0x80000000. -/
theorem test_table_el10_two_stages :
    nextRead (exec (decodeDescriptor (el10 1) 0x0000000000010003)
        (reading twoStage (req 0x40001234 false true) (walk 0x40001234 1 false) .stage1)) =
      some (true, 0x80000000) := by decide
/-- R212: an address bit at the output size, 40. -/
theorem test_table_el2_too_wide :
    fault (exec (.descTableS1El2El3 { ns := false, apRo := false, xn := false, addr := 0x10000000 })
        (reading { nsEl1 true with el := .el2 } (req 0 false true) (walk 0 1 true) .stage1)) =
      some (.addressSize, 1, false, false, false) := by decide
/-- R213: the EL2 regime reads the next table directly. -/
theorem test_table_el2 :
    nextRead (exec (.descTableS1El2El3 { ns := false, apRo := true, xn := true, addr := 0x1004 })
        (reading { nsEl1 true with el := .el2 } (req 0x1000 false true) (walk 0x1000 2 true) .stage1)) =
      some (true, 0x1004008) := by decide
/-- P3: the stage 2 level 2 table of IPA 0x2008 leads to the descriptor at 0x80011010. -/
theorem test_table_s2 :
    nextRead (exec (.descTableS2 0x80011)
        (reading twoStage (req 0x40001234 false true) (walk 0x2008 2 true) (.table (walk 0x40001234 1 false) good))) =
      some (true, 0x80011010) := by decide
/-- P1: the block of address 0x40412345 (level 2, 2MB). -/
theorem test_block_s1 :
    record (exec (decodeDescriptor (el10 2) 0x0000000090000401)
        (reading (nsEl1 false) (req 0x40412345 false true) (walk 0x40412345 2 false) .stage1)) =
      some (0x90012345, true, { ap := 0b001, xn := false, pxn := false }, 0x200000) := by decide
/-- P1: the page of address 0x40203ABC. -/
theorem test_page_s1 :
    record (exec (decodeDescriptor (el10 3) 0x0060000012345F47)
        (reading (nsEl1 false) (req 0x40203ABC false true) (walk 0x40203ABC 3 false) .stage1)) =
      some (0x12345ABC, true, { ap := 0b011, xn := true, pxn := true }, 0x1000) := by decide
/-- R220: the access flag. -/
theorem test_page_s1_access_flag :
    fault (exec (decodeDescriptor (el10 3) 0x0060000012346B47)
        (reading (nsEl1 false) (req 0 false true) (walk 0 3 false) .stage1)) =
      some (.accessFlag, 3, false, false, false) := by decide
/-- P3: stage 2 of the access, a read of 0x40001234. -/
theorem test_block_s2 :
    (output (exec (decodeDescriptor (stage2 1) 0x00000000C000077D)
        (reading twoStage (req 0x40001234 false true) (walk 0x40001234 1 true) (.access good)))).map (fun o => o.2.1) =
      some { physicaladdress := 0xC0001234, ns := true } := by decide
/-- P3: the same block forbids a write. -/
theorem test_block_s2_write :
    fault (exec (decodeDescriptor (stage2 1) 0x00000000C000077D)
        (reading twoStage (req 0x40001234 true true) (walk 0x40001234 1 true) (.access good))) =
      some (.permission, 1, true, true, false) := by decide
/-- P3: stage 2 of the descriptor address 0x2008; the stage 1 descriptor is read at 0x90002008. -/
theorem test_page_s2 :
    nextRead (exec (decodeDescriptor (stage2 3) 0x00000000900027FF)
        (reading twoStage (req 0x40001234 false true) (walk 0x2008 3 true) (.table (walk 0x40001234 1 false) good))) =
      some (true, 0x90002008) := by decide
/-- P3, without read permission: a fault of the stage 1 walk, never a write. -/
theorem test_page_s2_unreadable :
    fault (exec (decodeDescriptor (stage2 3) 0x000000009000273F)
        (reading twoStage (req 0x40001234 true true) (walk 0x2008 3 true) (.table (walk 0x40001234 1 false) good))) =
      some (.permission, 3, false, true, true) := by decide

/-- R248, R250: Device memory is Outer Shareable. -/
theorem test_mair_device_completes :
    [Instr.mairDeviceNGnRnE, .mairDeviceNGnRE, .mairDeviceNGRE, .mairDeviceGRE].map
        (fun i => output (exec i (decoding (nsEl1 false) (req 0 false true) 0b011))) =
      List.replicate 4 (some (false, { physicaladdress := 0, ns := true }, .device, true)) := by decide
/-- R136: unaligned data in Device memory. -/
theorem test_mair_device_misaligned :
    (fault (exec .mairDeviceNGnRE (decoding (nsEl1 false) (req 0 true false) 0b011))).map (fun f => (f.1, f.2.2.1)) =
      some (.alignment, true) := by decide
/-- R247: every reserved encoding takes the implementation's choice, here Device-GRE. -/
theorem test_mair_reserved_completes :
    [Instr.mairReservedDevice01 0, .mairReservedDevice10 1, .mairReservedDevice11 3, .mairReservedNormal 4].map
        (fun i => output (exec i (decoding (nsEl1 false) (req 0 false true) 0b011))) =
      List.replicate 4 (some (false, { physicaladdress := 0, ns := true }, .device, true)) := by decide
/-- R249: Normal memory, Inner Shareable (SH '11'). -/
theorem test_mair_normal_completes :
    output (exec (.mairNormal 0xF 0xF) (decoding (nsEl1 false) (req 0 false true) 0b011)) =
      some (false, { physicaladdress := 0, ns := true }, .normal, false) := by decide
/-- P1: a write by EL0 to a page that is privileged only faults at the page's level. -/
theorem test_mair_normal_permission :
    fault (exec (.mairNormal 0xF 0xF) (decoding { nsEl1 false with el := .el0 } (req 0 true true) 0b001)) =
      some (.permission, 3, true, false, false) := by decide

/-! ### A state and operands that meet the hypotheses of each statement

Where a statement has clauses, one for each clause, at the edges of its range. -/

def leafS1 : LeafS1 where
  xn := false
  pxn := false
  contiguous := true
  addr := 0xFFFFFFF
  nG := false
  af := true
  sh := 0b11
  ap := 0b01
  ns := false
  attrIndx := 1

def leafS2 : LeafS2 where
  xn := false
  pxn := false
  contiguous := false
  addr := 0xFFFFFFF
  nG := false
  af := true
  sh := 0b11
  s2ap := 0b11
  memAttr := 0b1111

/-- `s` with one request waiting. -/
def asked (s : State) (r : Request) : State := { s with requests := [r] }

/-- `s` with stage 1 off. -/
def off (s : State) : State := { s with regs := { s.regs with sctlrEl1 := { s.regs.sctlrEl1 with m := false } } }

/-- `twoStage` with default cacheability. -/
def cacheable : State := { twoStage with regs := { twoStage.regs with hcrEl2 := { twoStage.regs.hcrEl2 with dc := true } } }

/-- `s` with `HCR_EL2.PTW`. -/
def protectedWalk (s : State) : State :=
  { s with regs := { s.regs with hcrEl2 := { s.regs.hcrEl2 with ptw := true } } }

/-- A record of Device memory. -/
def deviceRecord : TLBRecord :=
  { placeRecord true with
    addrdesc := { good with memattrs := { good.memattrs with memtype := .device } } }

def s1Walk : State := reading (nsEl1 false) (req 0 false true) (walk 0 1 false) .stage1
def s2Access (r : Request) : State := reading twoStage r (walk 0x40001234 1 true) (.access good)
def s2Table (r : Request) : State := reading twoStage r (walk 0x2008 3 true) (.table (walk 0x40001234 1 false) good)

/-- `DecodeEncodeDescriptors`: each descriptor row in a context of its own. -/
theorem test_met_contexts :
    ([(el10 0, Instr.descInvalid), (el2 3, .descReservedL3), (el2 1, .descBlockNotAllowed),
      (el10 0, .descTableS1El10 default), (el2 2, .descTableS1El2El3 default), (stage2 2, .descTableS2 default),
      (el10 1, .descBlockS1 leafS1), (el2 3, .descPageS1 leafS1), (stage2 1, .descBlockS2 leafS2),
      (stage2 3, .descPageS2 leafS2)].all fun p => fitsContext p.1 p.2 && !p.2.isMair) = true := by decide
/-- `MairBytesAndTermsCorrespond`: the edges of the nibbles. -/
theorem test_met_mair_terms :
    ([Instr.mairReservedNormal 1, .mairReservedNormal 15, .mairNormal 1 1, .mairNormal 15 15, .mairReservedDevice11 3].all
      fun i => i.isMair && i.wf) = true := by decide
/-- `DescriptorKindByLowBitsAndLevel`: every clause. -/
theorem test_met_kinds :
    (0xFFFFFFFFFFFFFFFE#64).getLsbD 0 = false ∧ (1#64).extractLsb' 0 2 = 0b01 ∧ (3#64).extractLsb' 0 2 = 0b11 ∧
      (el10 3).level = 3 ∧ ((el10 0).level ≠ 3 ∧ (el10 0).level.val < firstblocklevel (el10 0).granule) ∧
      ((el10 1).level ≠ 3 ∧ firstblocklevel (el10 1).granule ≤ (el10 1).level.val ∧ (el10 1).stage ≠ .s2) ∧
      (stage2 1).stage = .s2 ∧ (el2 2).stage = .s1El2El3 ∧ (stage2 3).level = 3 := by decide
/-- `UnreadDescriptorBitsHaveNoEffect`: a level 3 walk, and two pages that differ in bits [63:55] and [51:48]. -/
theorem test_met_unread_bits :
    (reading (nsEl1 false) (req 0 false true) (walk 0 3 false) .stage1).phase =
        .walking (req 0 false true) (walk 0 3 false) .stage1 good ∧
      (0xFF8F000000000403#64 ≠ 0x0000000000000403) ∧
      ∀ k : Fin 64, bitRead (walkContext (walk 0 3 false) .stage1) ((0xFF8F000000000403#64).extractLsb' 0 2) k.val = true →
        (0xFF8F000000000403#64).getLsbD k.val = (0x0000000000000403#64).getLsbD k.val := by decide
/-- `RegisterWordsRoundTrip`: two registers, the edges of a word; a bit that is kept and one that is not. -/
theorem test_met_two_registers :
    SysReg.tcrEl1 ≠ SysReg.tcrEl2 ∧ SysReg.hcrEl2.holdsBit 33 = true ∧ SysReg.hcrEl2.holdsBit 34 = false ∧
      SysReg.vttbrEl2.holdsBit 63 = true ∧ SysReg.scrEl3.holdsBit 0 = true := by decide
/-- R36: VM, PTW, DC, TGE, CD and ID of an `HCR_EL2` word of ones, and T1SZ and IPS of a `TCR_EL1` word. -/
theorem test_register_words :
    readRegister (writeRegister Registers.reset .hcrEl2 0xFFFFFFFFFFFFFFFF) .hcrEl2 = 0x0000000308001005 ∧
      (writeRegister Registers.reset .tcrEl1 0x0000000500190000).tcrEl1.t1sz = 25 ∧
      (writeRegister Registers.reset .tcrEl1 0x0000000500190000).tcrEl1.ips = 0b101 := by decide

/-- `StepRunsDecodedInstruction`, `EveryFetchedWordDecodes`: a descriptor due (memory of zeros) and a MAIR
byte due (0xFF, byte 1). -/
theorem test_met_fetch :
    s1Walk.fetched = some (.ok .descInvalid) ∧ s1Walk.phase ≠ .idle ∧
      (decoding (nsEl1 false) (req 0 false true) 0b011).fetched = some (.ok (.mairNormal 0xF 0xF)) := by decide
/-- `PlacedWordIsDecodedNext`: the reset state, and both widths at their edge. -/
theorem test_met_place :
    Memory.wf State.reset.memS = true ∧ Memory.wf State.reset.memNS = true ∧
      (State.reset.withFetchWord 8 0x40).fetched = some (.ok (.mairReservedNormal 4)) ∧
      (State.reset.withFetchWord 9 0x2).fetched = some (.ok .descInvalid) := by decide
/-- `IdleUnitWaits`. -/
theorem test_met_idle : State.reset.phase = .idle ∧ State.reset.requests = [] := by decide
/-- `StepWritesNoRegisterAndNoMemory`, `EveryStepKeepsTheInvariant`, `EachStepLowersTheWordsLeft`,
`NoStepIsRefusedInAArch64`, `NonSecureStepsIgnoreSecureMemory`, `EveryCallReturnsOneResult`: a descriptor
step in the invariant. -/
theorem test_met_step :
    s1Walk.inv = true ∧ s1Walk.allAArch64 = true ∧ s1Walk.isSecure = false ∧ s1Walk.phase ≠ .idle ∧
      (nextRead (step s1Walk) = none ∧ (output (step s1Walk)).isSome = true) := by decide
/-- The same of the step that takes a request. -/
theorem test_met_request_step :
    (asked (nsEl1 false) (req 0x40203ABC false true)).inv = true ∧
      (asked (nsEl1 false) (req 0x40203ABC false true)).phase = .idle ∧
      nextRead (step (asked (nsEl1 false) (req 0x40203ABC false true))) = some (true, 0x80000008) := by decide

/-- `StageOneEnableConditions`: each Exception level, and Non-secure EL1 with and without EL2; stage 2 on by VM, by
DC, and off. -/
theorem test_met_enable :
    ((twoStage.regs.hcrEl2.vm = true ∧ twoStage.regs.hcrEl2.dc = false ∧ cacheable.regs.hcrEl2.dc = true) ∧
      (nsEl1 true).regs.hcrEl2.vm = false ∧ (nsEl1 true).regs.hcrEl2.dc = false) ∧
    ((nsEl1 true).cfg.haveEl2 = true ∧ (nsEl1 true).isSecure = false ∧ (nsEl1 true).el = .el1) ∧
      (nsEl1 false).cfg.haveEl2 = false ∧ (nsEl1 false).el = .el1 ∧ State.reset.el = .el3 ∧
      ({ nsEl1 true with el := .el2 } : State).el = .el2 := by decide
/-- `RegimeSelectsItsRegisters`: the lower and the upper range of EL1&0, and the other two regimes. -/
theorem test_met_ranges :
    (State.reset.el = .el3 ∧ ({ nsEl1 true with el := .el2 } : State).el = .el2 ∧ (nsEl1 false).el = .el1) ∧
    (0x7FFFFFFFFFFFFFFF#64).getLsbD 55 = true ∧ (0x8000000000000000#64).getLsbD 55 = false ∧
    (0x7FFFFFFFFFFFFFFF#64).getLsbD ((nsEl1 false).addrTop 0x7FFFFFFFFFFFFFFF) = false ∧
      (0x8000000000000000#64).getLsbD ((nsEl1 false).addrTop 0x8000000000000000) = true := by decide
/-- `InputSizeLimits`: sizes 48, 49, 25 and 24, and a configured size out of range at each stage. -/
theorem test_met_input_size :
    limitInputSize (impl true) default 48 = 48 ∧ limitInputSize (impl true) default 49 = 49 ∧
      limitInputSize (impl true) default 25 = 25 ∧ limitInputSize (impl true) default 24 = 25 ∧
      ¬(25 ≤ limitInputSize (impl true) default (64 - (15#6).toNat) ∧
        limitInputSize (impl true) default (64 - (15#6).toNat) ≤ 48) := by decide
/-- `StageTwoSizeAgainstImplementedSize`: 40 bits and 41 bits where 40 are implemented; 40 where 32 are and
EL1 uses AArch32. -/
theorem test_met_stage2_size :
    twoStage.stage2Size default 40 = (40, 40, true) ∧ twoStage.stage2Size default 41 = (40, 41, true) ∧
      ({ twoStage with el1Aarch32 := true, cfg := { impl true with pamax := .bits32 } } : State).stage2Size default 40 =
        (40, 40, true) := by decide
/-- `StageOneWalkSetup`, `InputSizeLimits`: the last address of the lower range opens, the next does not; the
upper range is disabled; a base of 2^40 is too wide. -/
theorem test_met_stage1_setup :
    ((nsEl1 false).openStage1 0x7FFFFFFFFF 0).isOk = true ∧
      (nsEl1 false).openStage1 0x8000000000 0 = .error .translation ∧
      (nsEl1 false).openStage1 0xFFFFFF8000000000 0 = .error .translation ∧
      ({ nsEl1 false with regs := { (nsEl1 false).regs with ttbr0El1 := 0x10000000000 } } : State).openStage1 0 0 =
        .error .addressSize := by decide
/-- `StageTwoWalkSetup`: the last intermediate address opens, the next does not; SL0 of an illegal
configuration; a base of 2^40. -/
theorem test_met_stage2_setup :
    (twoStage.openStage2 0xFFFFFFFFFF).isOk = true ∧ twoStage.openStage2 0x10000000000 = .error .translation ∧
      s2StartLevel .small 1 40 40 = some 1 ∧ s2StartLevel .small 0 40 40 = none ∧
      ({ twoStage with regs := { twoStage.regs with vttbrEl2 := 0x10000000000 } } : State).openStage2 0 =
        .error .addressSize := by decide
/-- `DescriptorAddressIsBasePlusIndex`: walks that open at either stage, and one that descends. -/
theorem test_met_entry :
    (∃ w, (nsEl1 false).openStage1 0 0 = .ok w) ∧ (∃ w, twoStage.openStage2 0 = .ok w) ∧ (walk 0 2 false).level ≠ 3 :=
  ⟨⟨_, rfl⟩, ⟨_, rfl⟩, by decide⟩

/-- `AArch32RegimeIsRefused`: each of the three regimes. -/
theorem test_met_aarch32 :
    ([{ nsEl1 true with el1Aarch32 := true }, { nsEl1 true with el := .el0, el1Aarch32 := true },
      { nsEl1 true with el := .el2, el2Aarch32 := true }, { State.reset with el3Aarch32 := true }].all
      fun s : State => s.elUsingAArch32 s.s1Regime && decide ((asked s (fetch 0)).phase = .idle)) = true := by decide
/-- `twoStage` with EL2 using AArch32. -/
def hyp32 : State := { twoStage with el2Aarch32 := true }

/-- The reason of a refusal. -/
def refusal : Result → Option Refusal
  | .next _ => none
  | .fault _ => none
  | .refused r => some r

/-- The same, the stage 2 walks that EL2 using AArch32 refuses: a request with stage 1 on and with it off, a table of
each kind, a MAIR byte, and a stage 2 page. -/
theorem test_met_aarch32_el2 :
    (hyp32.twoStages = true ∧ hyp32.s2Enabled = true ∧ hyp32.el2Aarch32 = true ∧ hyp32.el1Aarch32 = false ∧
        (off hyp32).twoStages = true ∧ hyp32.s1Enabled = true ∧ (off hyp32).s1Enabled = false ∧
        (hyp32.openStage1 (effectiveRequest hyp32 (req 0 false true)).vaddress 0).isOk = true) ∧
      [step (asked hyp32 (req 0 false true)), step (asked (off hyp32) (req 0 false true)),
        exec (.descTableS1El10 default) (reading hyp32 (req 0 false true) (walk 0 1 false) .stage1),
        exec (.descTableS1El2El3 default) (reading hyp32 (req 0 false true) (walk 0 1 true) .stage1),
        exec (.mairNormal 1 15) (decoding hyp32 (req 0 false true) 0b011),
        exec (.descPageS2 leafS2) (reading hyp32 (req 0 false true) (walk 0x2008 3 true) (.access good))].map refusal =
        List.replicate 6 (some .stage2AArch32) := by decide
/-- `RequestStartsStageOneWalk`: stage 1 on, with a walk that opens and one that faults. -/
theorem test_met_request :
    (nsEl1 true).elUsingAArch32 (nsEl1 true).s1Regime = false ∧ (nsEl1 true).s1Enabled = true ∧
      ((nsEl1 true).openStage1 (effectiveRequest (nsEl1 true) (req 0 false true)).vaddress 0).isOk = true ∧
      (nsEl1 true).openStage1 (effectiveRequest (nsEl1 true) (req 0x8000000000 false true)).vaddress 0 =
        .error .translation := by decide
/-- `FlatMapRejectsOversizeAddress`, `FlatMapReturnsTheAddress`, `FlatMapMisalignedDataFaults`: stage 1 off, the
address 2^40 and the one below it; with and without the default-cacheable override. -/
theorem test_met_flat_map :
    (off (nsEl1 false)).s1Enabled = false ∧ cacheable.s1Enabled = false ∧
      (cacheable.twoStages = true ∧ cacheable.regs.hcrEl2.dc = true) ∧ (off (nsEl1 false)).regs.hcrEl2.dc = false ∧
      ¬(0x10000000000#64).toNat % 2 ^ ((off (nsEl1 false)).addrTop 0x10000000000 + 1) < 2 ^ PaSize.bits .bits40 ∧
      (0xFFFFFFFFFF#64).toNat % 2 ^ ((off (nsEl1 false)).addrTop 0xFFFFFFFFFF + 1) < 2 ^ PaSize.bits .bits40 ∧
      (req 0 false false).wasaligned = false ∧ (fetch 0).acctype = .ifetch := by decide

/-- `InvalidDescriptorsFault`, `BlockNotAllowedFaults`, `TableAddressTooWideFaults` and the three table rows: a
walk above level 3 of each kind, a level with no blocks, and the addresses at the output size. -/
theorem test_met_tables :
    (walk 0 0 false).level ≠ 3 ∧ (walk 0 0 false).level.val < firstblocklevel (walk 0 0 false).granule ∧
      (walk 0 3 false).level = 3 ∧ (walk 0 1 false).singlepriv = false ∧ (walk 0 1 true).singlepriv = true ∧
      (Target.access good).secondstage = true ∧ (Target.table (walk 0 1 false) good).secondstage = true ∧
      (0xFFFFFFF#36).toNat * 4096 < 2 ^ PaSize.bits (walk 0 1 false).outputsize ∧
      2 ^ PaSize.bits (walk 0 1 false).outputsize ≤ (0x10000000#36).toNat * 4096 ∧
      2 ^ PaSize.bits (walk 0 1 false).outputsize ≤ (0x10000000003#64).toNat % 2 ^ 48 := by decide
/-- `TableAttributesOnlyBecomeStricter`: a step over a table whose attributes are all set, direct and through
stage 2. -/
theorem test_met_table_step :
    nextRead (step { s1Walk with memNS := Memory.writeBytes [] 0x80000008 (bytesOfWord 0xF800000080001003) }) =
        some (true, 0x80001000) ∧
      (nextRead (step (reading { twoStage with memNS := Memory.writeBytes [] 0x80000008 (bytesOfWord 0xF800000000010003) }
        (req 0 false true) (walk 0 1 false) .stage1))).isSome = true := by decide
/-- The same of a step of a stage 2 walk: over a table, and back to the suspended stage 1 walk. -/
theorem test_met_stage2_step :
    (Target.table (walk 0x40001234 1 false) good).secondstage = true ∧
      nextRead (step (reading { twoStage with memNS := Memory.writeBytes [] 0x80000008 (bytesOfWord 0x80011003) }
        (req 0 false true) (walk 0x2008 2 true) (.table (walk 0x40001234 1 false) good))) = some (true, 0x80011010) ∧
      nextRead (step { s2Table (req 0 false true) with memNS := Memory.writeBytes [] 0x80000008 (bytesOfWord 0x900027FF) }) =
        some (true, 0x90002008) := by decide
/-- `LeafChecksInOrder`: the four rows in a context of theirs; a contiguous range too big, and not. -/
theorem test_met_leaf_rows :
    (fitsContext (walkContext (walk 0 1 false) .stage1) (.descBlockS1 leafS1) = true ∧
      fitsContext (walkContext (walk 0 3 true) .stage1) (.descPageS1 leafS1) = true ∧
      fitsContext (walkContext (walk 0 1 true) (.access good)) (.descBlockS2 leafS2) = true ∧
      fitsContext (walkContext (walk 0 3 true) (.table (walk 0 1 false) good)) (.descPageS2 leafS2) = true) ∧
    contiguousMisprogrammed { walk 0 1 false with inputsize := 33 } ∧
      ¬contiguousMisprogrammed { walk 0 1 false with inputsize := 34 } ∧
      leafFields (.descBlockS1 leafS1) = some (true, 0xFFFFFFF, true) ∧
      leafFields (.descPageS2 { leafS2 with af := false, addr := 0x10000000 }) = some (false, 0x10000000, false) := by
  unfold contiguousMisprogrammed
  decide
/-- `StageOneLeafGivesItsRecord`: a block and a page at the top of the output size, in either kind of regime. -/
theorem test_met_leaf_s1 :
    LeafPasses (nsEl1 false) (walk 0 1 false) leafS1.contiguous leafS1.addr leafS1.af ∧
      LeafPasses (nsEl1 false) (walk 0 3 true) leafS1.contiguous leafS1.addr leafS1.af := by
  unfold LeafPasses contiguousMisprogrammed
  decide
/-- `leafS2` with the memory attribute field `m`. -/
def typed (m : BitVec 4) : LeafS2 := { leafS2 with memAttr := m }

/-- `StageTwoLeafReturnsTheAddress`, `StageTwoAccessFaults`: a read, a write and a fetch; Normal and Device, and
permissions that allow and that forbid. -/
theorem test_met_leaf_s2_access :
    (∃ d, (s2Access (req 0 true true)).phase = .walking (req 0 true true) (walk 0x40001234 1 true) (.access good) d) ∧
      fitsContext (walkContext (walk 0x40001234 1 true) (.access good)) (.descBlockS2 (typed 0b0011)) = true ∧
      LeafPasses (s2Access (fetch 0)) (walk 0x40001234 1 true) leafS2.contiguous leafS2.addr leafS2.af ∧
      (s2Access (fetch 0)).s2WalkAssert = true ∧ good.isFault = false ∧
      ((s2Access (fetch 0)).s2LeafType (fetch 0) leafS2 = .normal ∧
        (s2Access (req 0 true true)).s2LeafType (req 0 true true) (typed 0b0011) = .device ∧
        (s2Access (req 0 true false)).s2LeafType (req 0 true false) (typed 0b0000) = .device ∧
        (s2Access (fetch 0)).s2LeafType (fetch 0) (typed 0b0001) = .device) ∧
      (leafS2.xn = false ∧ leafS2.s2ap.getLsbD 1 = true ∧ leafS2.s2ap.getLsbD 0 = true) ∧
      (({ leafS2 with xn := true } : LeafS2).xn = true ∧ (0b01#2).getLsbD 1 = false ∧ (0b10#2).getLsbD 0 = false) :=
  ⟨⟨_, rfl⟩, by decide, by unfold LeafPasses contiguousMisprogrammed; decide, by decide, by decide, by decide, by decide,
    by decide⟩
/-- `twoStage` with a choice for a fetch from Device memory. -/
def fetching (p : Policy FetchChoice) : State := { twoStage with cfg := { impl true with cuInstrDevice := p } }

/-- The fetch from Device memory at stage 2, for the access and for a descriptor address: the choice fixed either
way, and made afresh. -/
theorem test_met_leaf_s2_fetch :
    (fetching (.fixed .fault)).cfg.cuInstrDevice = .fixed .fault ∧
      (fetching (.fixed .none)).cfg.cuInstrDevice = .fixed .none ∧ (fetching .perCall).cfg.cuInstrDevice = .perCall ∧
      (∃ d, (reading (fetching .perCall) (fetch 0) (walk 0x2008 3 true) (.table (walk 0x40001234 1 false) good)).phase =
        .walking (fetch 0) (walk 0x2008 3 true) (.table (walk 0x40001234 1 false) good) d) ∧
      (fetching .perCall).s2LeafType (fetch 0) (typed 0b0001) = .device ∧ (typed 0b0001).xn = false ∧
      (typed 0b0001).s2ap.getLsbD 0 = true ∧ (fetch 0).acctype = .ifetch :=
  ⟨rfl, rfl, rfl, ⟨_, rfl⟩, by decide, by decide, by decide, by decide⟩
/-- `StageTwoLeafResumesStageOne`, `StageTwoWalkFaults`: a page for a descriptor address, Normal and Device; with
and without `HCR_EL2.PTW`. -/
theorem test_met_leaf_s2_table :
    (∃ d, (s2Table (req 0 true true)).phase =
        .walking (req 0 true true) (walk 0x2008 3 true) (.table (walk 0x40001234 1 false) good) d) ∧
      fitsContext (walkContext (walk 0x2008 3 true) (.table (walk 0x40001234 1 false) good)) (.descPageS2 (typed 0b0011)) =
        true ∧
      LeafPasses (s2Table (req 0 true true)) (walk 0x2008 3 true) leafS2.contiguous leafS2.addr leafS2.af ∧
      (s2Table (req 0 true true)).s2WalkAssert = true ∧
      ((s2Table (req 0 true true)).s2LeafType (req 0 true true) leafS2 = .normal ∧
        (s2Table (req 0 true true)).s2LeafType (req 0 true true) (typed 0b0011) = .device ∧
        (protectedWalk (s2Table (req 0 true true))).s2LeafType (req 0 true true) (typed 0b0011) = .device) ∧
      (s2Table (req 0 true true)).regs.hcrEl2.ptw = false ∧
      (protectedWalk (s2Table (req 0 true true))).regs.hcrEl2.ptw = true ∧
      (0b01#2).getLsbD 0 = true ∧ (0b10#2).getLsbD 0 = false :=
  ⟨⟨_, rfl⟩, by decide, by unfold LeafPasses contiguousMisprogrammed; decide, by decide, by decide, by decide, by decide,
    by decide, by decide⟩
/-- `StageTwoPermissionCheck`: each of its three checks passes and fails. -/
theorem test_met_s2_permission :
    [checkS2Permission default { ap := 0b001, xn := false, pxn := false } 0 1 .ifetch false false,
      checkS2Permission default { ap := 0b111, xn := true, pxn := false } 0 1 .ifetch false false,
      checkS2Permission default { ap := 0b101, xn := false, pxn := false } 0 1 .normal true false,
      checkS2Permission default { ap := 0b011, xn := false, pxn := false } 0 1 .normal true false,
      checkS2Permission default { ap := 0b011, xn := true, pxn := false } 0 1 .ifetch true true,
      checkS2Permission default { ap := 0b101, xn := true, pxn := false } 0 1 .ifetch true true].map FaultRecord.kind =
      [.none, .permission, .none, .permission, .none, .permission] := by decide
/-- `good` in Device memory of a kind. -/
def deviceDesc (k : DeviceType) : AddressDescriptor :=
  { good with memattrs := { good.memattrs with memtype := .device, device := k } }

/-- `CombinedAttributesAreTheStricter`: two descriptors without a fault, and one with; a Device side, and two. -/
theorem test_met_combine :
    good.isFault = false ∧ good.memattrs.memtype = .normal ∧
      ({ good with fault := { good.fault with kind := .permission } } : AddressDescriptor).isFault = true ∧
      (deviceDesc .gre).isFault = false ∧ (deviceDesc .gre).memattrs.memtype = .device ∧
      (combineS1S2Desc default (deviceDesc .gre) (deviceDesc .nGRE)).memattrs.device = .nGRE ∧
      (combineS1S2Desc default good (deviceDesc .gre)).memattrs.device = .gre := by decide

/-- `MairRowsAgreeWithAttrDecode`, `DeviceMairRowsComplete`, `NormalMairRowCompletes`, `ReservedMairRowsComplete`: a
permitted access with its attribute due. -/
theorem test_met_attribute :
    (∃ r, (decoding (nsEl1 true) (req 0 true true) 0b011).phase = .attr (req 0 true true) 0x77 r 0b11 1 ∧
      r.addrdesc.isFault = false ∧
      (decoding (nsEl1 true) (req 0 true true) 0b011).s1Fails r.perms r.addrdesc.paddress.ns .normal true = false) ∧
      (req 0 true true).wasaligned = true :=
  ⟨⟨_, rfl, by decide, by decide⟩, by decide⟩
/-- `s` with a choice for the reserved MAIR encodings. -/
def mapping (m : Policy MairAllocated) : State := { nsEl1 true with cfg := { impl true with cuMairBits := m } }

/-- `ReservedMairRowsActAsAllocated`: the edges of the Normal choices, a Device choice, a choice made afresh. -/
theorem test_met_reserved :
    (mapping (.fixed (.normal 0 14))).cfg.cuMairBits = .fixed (.normal 0 14) ∧
      (mapping (.fixed (.device .nGnRnE))).cfg.cuMairBits = .fixed (.device .nGnRnE) ∧
      (mapping .perCall).cfg.cuMairBits = .perCall ∧ (1#4) ≠ 0 := by decide
/-- `MisalignedDeviceDataFaults`: unaligned data, and a record of Device memory. -/
theorem test_met_misaligned :
    (req 0 true false).wasaligned = false ∧ (req 0 true false).acctype ≠ .ifetch ∧
      deviceRecord.addrdesc.isFault = false ∧ deviceRecord.addrdesc.memattrs.memtype = .device := by decide
/-- `StageOnePermissionFault`: a write to a read-only page, a fetch of an execute-never one, and unaligned data
behind a Normal byte and behind a reserved one, with its choice fixed and made afresh. -/
theorem test_met_s1_permission :
    (∃ r, (decoding (nsEl1 true) (req 0 true false) 0b111).phase = .attr (req 0 true false) 0x77 r 0b11 1 ∧
      r.addrdesc.isFault = false ∧
      (decoding (nsEl1 true) (req 0 true false) 0b111).s1Fails r.perms r.addrdesc.paddress.ns .normal true = true) ∧
      (nsEl1 true).s1Fails { ap := 0b101, xn := true, pxn := true } true .ifetch false = true ∧
      (mapping (.fixed (.normal 0 14))).s1Fails { ap := 0b111, xn := false, pxn := false } true .normal true = true ∧
      (mapping .perCall).s1Fails { ap := 0b111, xn := false, pxn := false } true .normal true = true ∧
      (req 0 true false).wasaligned = false ∧ (Instr.mairNormal 1 15).wf = true ∧
      (Instr.mairReservedNormal 1).wf = true ∧ (mapping (.fixed (.normal 0 14))).cfg.cuMairBits = .fixed (.normal 0 14) :=
  ⟨⟨_, rfl, by decide, by decide⟩, by decide, by decide, by decide, by decide, by decide, by decide, rfl⟩
/-- `StageOnePermissionTable`: every clause's premises. -/
theorem test_met_permission_table :
    ({ nsEl1 true with el := .el0 } : State).el = .el0 ∧ (nsEl1 true).el = .el1 ∧
      (let s : State := { nsEl1 false with cfg := { impl false with haveEl3 := true } }
        let t : State := { s with regs := { s.regs with scrEl3 := { ns := false, sif := true } } }
        t.cfg.haveEl3 = true ∧ t.isSecure = true ∧ t.regs.scrEl3.sif = true) := by decide
/-- `FetchFromDeviceIsTheChoice`: a permitted fetch. -/
theorem test_met_device_fetch :
    (nsEl1 true).s1Fails { ap := 0b101, xn := false, pxn := false } true .ifetch false = false ∧
      (fetch 0).acctype = .ifetch ∧ (impl true).cuInstrDevice = .fixed .fault := by decide
/-- `CacheabilityTables`: caches on and off. -/
theorem test_met_caches :
    (nsEl1 true).s1CacheDisabled .normal = false ∧ State.reset.s1CacheDisabled .normal = true ∧
      twoStage.s2CacheDisabled .ifetch = false := by decide
/-- `WordsOutOfTurnAreRefused`: every clause. -/
theorem test_met_out_of_turn :
    State.reset.phase = .idle ∧ fitsContext (walkContext (walk 0 1 false) .stage1) .descReservedL3 = false ∧
      (Instr.mairNormal 0 1).wf = false ∧ (Instr.mairNormal 1 1).wf = true := by decide

end Sys2Proof.Tests
end

section
/-! PROOFS. The state: every step leaves what the unit only reads as it was (R20). Each shared operation keeps
the world by its inversion lemma; the meaning of a word is one of the shared operations. -/

namespace Sys2Proof.Machine

/-! ### The updates of the state -/

theorem SameWorld.refl (s : State) : SameWorld s s :=
  ⟨rfl, rfl, rfl, rfl, rfl, rfl, rfl, fun _ _ => rfl, rfl, rfl⟩

theorem SameWorld.trans {s t u : State} (h : SameWorld s t) (h' : SameWorld t u) : SameWorld s u where
  cfg := h'.cfg.trans h.cfg
  el := h'.el.trans h.el
  el0 := h'.el0.trans h.el0
  el1 := h'.el1.trans h.el1
  el2 := h'.el2.trans h.el2
  el3 := h'.el3.trans h.el3
  regs := h'.regs.trans h.regs
  bytes ns a := (h'.bytes ns a).trans (h.bytes ns a)
  memS := h'.memS.trans h.memS
  memNS := h'.memNS.trans h.memNS

/-- The fields the unit owns (requests, results, the call in progress, the latest record, the tick) are not part of
the world. -/
theorem SameWorld.of_own_fields (s : State) (requests : List Request) (results : List AddressDescriptor) (phase : Phase)
    (lastWalk : Option TLBRecord) (tick : Nat) :
    SameWorld s { s with requests, results, phase, lastWalk, tick } :=
  ⟨rfl, rfl, rfl, rfl, rfl, rfl, rfl, fun _ _ => rfl, rfl, rfl⟩

theorem State.goto_sameWorld (s : State) (p : Phase) : SameWorld s (s.goto p) := .of_own_fields s _ _ _ _ _

theorem State.finish_sameWorld (s : State) (ad : AddressDescriptor) : SameWorld s (s.finish ad) :=
  .of_own_fields s _ _ _ _ _

theorem State.record_sameWorld (s : State) (r : TLBRecord) : SameWorld s (s.record r) := .of_own_fields s _ _ _ _ _

theorem State.atDescriptor_sameWorld (s : State) (req : Request) (w : Walk) (target : Target) (d : AddressDescriptor) :
    SameWorld s (s.atDescriptor req w target d) := s.goto_sameWorld _

theorem State.finishFault_sameWorld (s : State) (target : Target) (f : FaultRecord) :
    SameWorld s (s.finishFault target f) := by
  cases target with
  | stage1 => exact s.finish_sameWorld _
  | access s1 => exact s.finish_sameWorld _
  | table outer s1 => exact s.finish_sameWorld _

/-! ### The shared operations -/

theorem State.secondStage_sameWorld {s t : State} {req : Request} {s1 : AddressDescriptor} {outer : Option Walk}
    (h : s.secondStage req s1 outer = .next t) : SameWorld s t := by
  obtain ⟨-, ⟨-, -, rfl⟩ | ⟨w, -, -, rfl⟩ | ⟨target, k, -, -, -, -, rfl⟩ | ⟨target, w2, -, -, -, -, rfl⟩⟩ :=
    State.secondStage_next h
  · exact s.finish_sameWorld s1
  · exact s.atDescriptor_sameWorld ..
  · exact s.finishFault_sameWorld ..
  · exact s.atDescriptor_sameWorld ..

theorem State.enterStage1_sameWorld {s t : State} {req : Request} {w : Walk} (h : s.enterStage1 req w = .next t) :
    SameWorld s t := by
  obtain ⟨-, rfl⟩ | ⟨-, -, -, h⟩ := State.enterStage1_next h
  · exact s.atDescriptor_sameWorld ..
  · exact State.secondStage_sameWorld h

theorem State.enterLevel_sameWorld {s t : State} {req : Request} {w : Walk} {target : Target}
    (h : s.enterLevel req w target = .next t) : SameWorld s t := by
  obtain ⟨-, h⟩ | ⟨-, rfl⟩ := State.enterLevel_next h
  · exact State.enterStage1_sameWorld h
  · exact s.atDescriptor_sameWorld ..

theorem State.afterStage1_sameWorld {s t : State} {req : Request} {ad : AddressDescriptor}
    (h : s.afterStage1 req ad = .next t) : SameWorld s t := by
  obtain ⟨-, rfl⟩ | ⟨-, -, h⟩ := State.afterStage1_next h
  · exact s.finish_sameWorld ad
  · exact State.secondStage_sameWorld h

theorem State.afterStage2Walk_sameWorld {s t : State} {req : Request} {w : Walk} {target : Target} {r : TLBRecord}
    (h : s.afterStage2Walk req w target r = .next t) : SameWorld s t := by
  refine (s.record_sameWorld r).trans ?_
  obtain ⟨-, ⟨s1, -, rfl⟩ | ⟨outer, s1, d, -, -, ⟨-, rfl⟩ | ⟨-, rfl⟩⟩⟩ := State.afterStage2Walk_next h
  · exact (s.record r).finish_sameWorld _
  · exact (s.record r).finishFault_sameWorld ..
  · exact (s.record r).atDescriptor_sameWorld ..

theorem State.stage1On_sameWorld {s t : State} {req : Request} (h : s.stage1On req = .next t) : SameWorld s t := by
  obtain ⟨k, -, rfl⟩ | ⟨w, -, h⟩ := State.stage1On_next h
  · exact s.finishFault_sameWorld ..
  · exact State.enterStage1_sameWorld h

theorem State.stage1Off_sameWorld {s t : State} {req : Request} (h : s.stage1Off req = .next t) : SameWorld s t := by
  obtain ⟨-, rfl⟩ | ⟨-, h⟩ := State.stage1Off_next h
  · exact s.finishFault_sameWorld ..
  · exact (s.record_sameWorld _).trans (State.afterStage1_sameWorld h)

theorem State.takeRequest_sameWorld {s t : State} (h : s.takeRequest = .next t) : SameWorld s t := by
  obtain ⟨-, rfl⟩ | ⟨req, rest, -, h⟩ := State.takeRequest_next h
  · exact .refl t
  · refine SameWorld.trans (.of_own_fields s rest s.results s.phase s.lastWalk s.tick) ?_
    exact h.elim State.stage1On_sameWorld State.stage1Off_sameWorld

/-! ### The meanings of the words -/

theorem State.invalidDescriptor_sameWorld {s t : State} {i : Instr} (h : s.invalidDescriptor i = .next t) :
    SameWorld s t := by
  obtain ⟨req, w, target, d, -, -, h⟩ := State.onDescriptor_next h
  cases h
  exact s.finishFault_sameWorld ..

theorem State.tableDescriptor_sameWorld {s t : State} {i : Instr} {a : BitVec 36} {ns apRo apPriv xn pxn : Bool}
    (h : s.tableDescriptor i a ns apRo apPriv xn pxn = .next t) : SameWorld s t := by
  obtain ⟨req, w, target, d, -, -, h⟩ := State.onDescriptor_next h
  split at h
  · cases h
    exact s.finishFault_sameWorld ..
  · exact State.enterLevel_sameWorld h

theorem State.leafS1_sameWorld {s t : State} {i : Instr} {f : LeafS1} (h : s.leafS1 i f = .next t) :
    SameWorld s t := by
  obtain ⟨req, w, target, d, -, -, h⟩ := State.onDescriptor_next h
  split at h
  · cases h
    exact s.finishFault_sameWorld ..
  · cases h
    exact s.goto_sameWorld _

theorem State.leafS2_sameWorld {s t : State} {i : Instr} {f : LeafS2} (h : s.leafS2 i f = .next t) :
    SameWorld s t := by
  obtain ⟨req, w, target, d, -, -, h⟩ := State.onDescriptor_next h
  split at h
  · cases h
    exact s.finishFault_sameWorld ..
  · exact State.afterStage2Walk_sameWorld h

theorem State.onAttribute_sameWorld {s t : State} {spec : BitVec 2 → AccType → AttrSpec}
    (h : s.onAttribute spec = .next t) : SameWorld s t := by
  obtain ⟨req, ip, r, sh, index, r', -, -, h⟩ := State.onAttribute_next h
  exact (s.record_sameWorld r').trans (State.afterStage1_sameWorld h)

/-- A MAIR field that is carried out gives the attributes of its row and continues the call that waits for them
(R247 to R249). -/
theorem exec_mair_next {i : Instr} {s t : State} (hm : i.isMair = true) (h : exec i s = .next t) :
    ∃ spec, s.onAttribute spec = .next t := by
  cases i with
  | descInvalid | descReservedL3 | descBlockNotAllowed | descTableS1El10 | descTableS1El2El3 | descTableS2
  | descBlockS1 | descPageS1 | descBlockS2 | descPageS2 => cases hm
  | mairDeviceNGnRnE => exact ⟨fun _ _ => .device .nGnRnE, h⟩
  | mairDeviceNGnRE => exact ⟨fun _ _ => .device .nGnRE, h⟩
  | mairDeviceNGRE => exact ⟨fun _ _ => .device .nGRE, h⟩
  | mairDeviceGRE => exact ⟨fun _ _ => .device .gre, h⟩
  | mairReservedDevice01 | mairReservedDevice10 | mairReservedDevice11 =>
    exact ⟨s.reservedSpec (s.unknown .s1Attr), h⟩
  | mairReservedNormal o =>
    simp only [exec, execMairReservedNormal] at h
    split at h
    · cases h
    · exact ⟨s.reservedSpec (s.unknown .s1Attr), h⟩
  | mairNormal o n =>
    simp only [exec, execMairNormal] at h
    split at h
    · cases h
    · exact ⟨s.normalSpec o n, h⟩

/-- A descriptor's meaning is one of the four operations on the walk that waits for it; a MAIR field's is the
continuation with its attributes. -/
theorem exec_sameWorld {i : Instr} {s t : State} (h : exec i s = .next t) : SameWorld s t := by
  cases i with
  | descInvalid | descReservedL3 | descBlockNotAllowed => exact State.invalidDescriptor_sameWorld h
  | descTableS1El10 | descTableS1El2El3 | descTableS2 => exact State.tableDescriptor_sameWorld h
  | descBlockS1 | descPageS1 => exact State.leafS1_sameWorld h
  | descBlockS2 | descPageS2 => exact State.leafS2_sameWorld h
  | mairDeviceNGnRnE | mairDeviceNGnRE | mairDeviceNGRE | mairDeviceGRE | mairReservedDevice01 | mairReservedDevice10
  | mairReservedDevice11 | mairReservedNormal | mairNormal =>
    obtain ⟨spec, h⟩ := exec_mair_next rfl h
    exact State.onAttribute_sameWorld h

/-- Settles O13: a step takes a request or carries out the word fetched, and both keep the world. -/
theorem stepWritesNoRegisterAndNoMemory : Obligations.StepWritesNoRegisterAndNoMemory := by
  intro s t h
  obtain ⟨-, h⟩ | ⟨i, -, h⟩ := step_next h
  · exact State.takeRequest_sameWorld h
  · exact exec_sameWorld h

end Sys2Proof.Machine
end

section
/-! PROOFS. The encoding of the descriptors (section 2 of spec/30_encoding.md): one equation of `decodeDescriptor`
for each kind of R91, then what follows from the kind. -/

namespace Sys2Proof.Machine

/-! ### The kind of a descriptor (R91, R93, R95) -/

/-- Bits [1:0] as the two bits that `decodeDescriptor` looks at. -/
theorem low_bits_of_extract {v : Word} {low : BitVec 2} (h : v.extractLsb' 0 2 = low) :
    v.getLsbD 0 = low.getLsbD 0 ∧ v.getLsbD 1 = low.getLsbD 1 := by
  subst h
  simp

section
variable {c : DescContext} {v : Word}

theorem decodeDescriptor_invalid (c : DescContext) (h : v.getLsbD 0 = false) :
    decodeDescriptor c v = .descInvalid := by
  simp only [decodeDescriptor, h]

theorem decodeDescriptor_reservedL3 (h : v.extractLsb' 0 2 = 0b01) (hl : c.level = 3) :
    decodeDescriptor c v = .descReservedL3 := by
  obtain ⟨h0, h1⟩ : v.getLsbD 0 = true ∧ v.getLsbD 1 = false := low_bits_of_extract h
  simp only [decodeDescriptor, h0, h1, if_pos hl]

theorem decodeDescriptor_blockNotAllowed (h : v.extractLsb' 0 2 = 0b01) (hl : c.level ≠ 3)
    (hb : c.level.val < firstblocklevel c.granule) : decodeDescriptor c v = .descBlockNotAllowed := by
  obtain ⟨h0, h1⟩ : v.getLsbD 0 = true ∧ v.getLsbD 1 = false := low_bits_of_extract h
  simp only [decodeDescriptor, h0, h1, if_neg hl, if_pos hb]

theorem decodeDescriptor_blockS1 (h : v.extractLsb' 0 2 = 0b01) (hl : c.level ≠ 3)
    (hb : firstblocklevel c.granule ≤ c.level.val) (hs : c.stage ≠ .s2) :
    decodeDescriptor c v = .descBlockS1 (decodeLeafS1 v) := by
  obtain ⟨h0, h1⟩ : v.getLsbD 0 = true ∧ v.getLsbD 1 = false := low_bits_of_extract h
  simp only [decodeDescriptor, h0, h1, if_neg hl, if_neg (Nat.not_lt.mpr hb)]
  cases stage : c.stage with
  | s1El10 | s1El2El3 => rfl
  | s2 => exact absurd stage hs

theorem decodeDescriptor_blockS2 (h : v.extractLsb' 0 2 = 0b01) (hl : c.level ≠ 3)
    (hb : firstblocklevel c.granule ≤ c.level.val) (hs : c.stage = .s2) :
    decodeDescriptor c v = .descBlockS2 (decodeLeafS2 v) := by
  obtain ⟨h0, h1⟩ : v.getLsbD 0 = true ∧ v.getLsbD 1 = false := low_bits_of_extract h
  simp only [decodeDescriptor, h0, h1, if_neg hl, if_neg (Nat.not_lt.mpr hb), hs]

theorem decodeDescriptor_pageS1 (h : v.extractLsb' 0 2 = 0b11) (hl : c.level = 3) (hs : c.stage ≠ .s2) :
    decodeDescriptor c v = .descPageS1 (decodeLeafS1 v) := by
  obtain ⟨h0, h1⟩ : v.getLsbD 0 = true ∧ v.getLsbD 1 = true := low_bits_of_extract h
  simp only [decodeDescriptor, h0, h1, if_pos hl]
  cases stage : c.stage with
  | s1El10 | s1El2El3 => rfl
  | s2 => exact absurd stage hs

theorem decodeDescriptor_pageS2 (h : v.extractLsb' 0 2 = 0b11) (hl : c.level = 3) (hs : c.stage = .s2) :
    decodeDescriptor c v = .descPageS2 (decodeLeafS2 v) := by
  obtain ⟨h0, h1⟩ : v.getLsbD 0 = true ∧ v.getLsbD 1 = true := low_bits_of_extract h
  simp only [decodeDescriptor, h0, h1, if_pos hl, hs]

theorem decodeDescriptor_tableS1El10 (h : v.extractLsb' 0 2 = 0b11) (hl : c.level ≠ 3) (hs : c.stage = .s1El10) :
    decodeDescriptor c v = .descTableS1El10 (decodeTableS1El10 v) := by
  obtain ⟨h0, h1⟩ : v.getLsbD 0 = true ∧ v.getLsbD 1 = true := low_bits_of_extract h
  simp only [decodeDescriptor, h0, h1, if_neg hl, hs]

theorem decodeDescriptor_tableS1El2El3 (h : v.extractLsb' 0 2 = 0b11) (hl : c.level ≠ 3)
    (hs : c.stage = .s1El2El3) : decodeDescriptor c v = .descTableS1El2El3 (decodeTableS1El2El3 v) := by
  obtain ⟨h0, h1⟩ : v.getLsbD 0 = true ∧ v.getLsbD 1 = true := low_bits_of_extract h
  simp only [decodeDescriptor, h0, h1, if_neg hl, hs]

theorem decodeDescriptor_tableS2 (h : v.extractLsb' 0 2 = 0b11) (hl : c.level ≠ 3) (hs : c.stage = .s2) :
    decodeDescriptor c v = .descTableS2 (v.extractLsb' 12 36) := by
  obtain ⟨h0, h1⟩ : v.getLsbD 0 = true ∧ v.getLsbD 1 = true := low_bits_of_extract h
  simp only [decodeDescriptor, h0, h1, if_neg hl, hs]

end

/-- Settles O4: the equations of the ten kinds, the field functions written out. -/
theorem descriptorKindByLowBitsAndLevel : Obligations.DescriptorKindByLowBitsAndLevel := fun c _ =>
  ⟨decodeDescriptor_invalid c,
   fun h01 =>
    ⟨decodeDescriptor_reservedL3 h01,
     decodeDescriptor_blockNotAllowed h01,
     fun hl hb => ⟨decodeDescriptor_blockS1 h01 hl hb, decodeDescriptor_blockS2 h01 hl hb⟩⟩,
   fun h11 =>
    ⟨fun hl => ⟨decodeDescriptor_pageS1 h11 hl, decodeDescriptor_pageS2 h11 hl⟩,
     fun hl =>
      ⟨decodeDescriptor_tableS1El10 h11 hl, decodeDescriptor_tableS1El2El3 h11 hl,
       decodeDescriptor_tableS2 h11 hl⟩⟩⟩

/-! ### The descriptors that end a walk with a Translation fault (R92, R210) -/

theorem exec_descInvalid (s : State) : exec .descInvalid s = s.invalidDescriptor .descInvalid := rfl
theorem exec_descReservedL3 (s : State) : exec .descReservedL3 s = s.invalidDescriptor .descReservedL3 := rfl

/-- A fault return of a walk ends the call with the walk's own fault record (R123, R229, R280). -/
theorem State.finishFault_ends (s : State) (kind : FaultKind) (req : Request) (w : Walk) (target : Target) :
    Ends s (.next (s.finishFault target (walkFault kind req w target))) (levelFault kind req w target) := by
  cases target with
  | stage1 | access | table => exact ⟨faultDescriptor _ (walkFault kind req w _), rfl, rfl⟩

/-- An invalid descriptor of a row that fits the walk ends it with a Translation fault at the current level
(R210, R217). -/
theorem State.invalidDescriptor_ends {s : State} {i : Instr} {req : Request} {w : Walk} {target : Target}
    {d : AddressDescriptor} (hp : s.phase = .walking req w target d)
    (hf : fitsContext (walkContext w target) i = true) :
    Ends s (s.invalidDescriptor i) (levelFault .translation req w target) := by
  rw [State.invalidDescriptor, State.onDescriptor_of_fits hp hf]
  exact s.finishFault_ends .translation req w target

theorem fitsContext_descReservedL3 {w : Walk} (target : Target) (hl : w.level = 3) :
    fitsContext (walkContext w target) .descReservedL3 = true :=
  beq_iff_eq.mpr hl

/-- Settles O35: such a word decodes to one of the two rows, and each row's meaning is the Translation fault. -/
theorem invalidDescriptorsFault : Obligations.InvalidDescriptorsFault := by
  intro s req w target d hp
  have invalid : Ends s (exec .descInvalid s) (levelFault .translation req w target) := by
    rw [exec_descInvalid]
    exact State.invalidDescriptor_ends hp rfl
  have reserved (hl : w.level = 3) : Ends s (exec .descReservedL3 s) (levelFault .translation req w target) := by
    rw [exec_descReservedL3]
    exact State.invalidDescriptor_ends hp (fitsContext_descReservedL3 target hl)
  refine ⟨fun v hv => ?_, invalid, reserved⟩
  obtain h0 | ⟨h01, hl⟩ := hv
  · rw [decodeDescriptor_invalid _ h0]
    exact invalid
  · rw [decodeDescriptor_reservedL3 h01 hl]
    exact reserved hl

end Sys2Proof.Machine
end

section
/-! PROOFS. Stage 1 (spec/41_stage1.md): when the two stages are enabled, and the alignment check that comes before
every other check of stage 1. -/

namespace Sys2Proof.Machine

/-! ### When the stages are enabled (R132, R163) -/

theorem State.twoStages_iff (s : State) :
    s.twoStages = true ↔ s.cfg.haveEl2 = true ∧ s.isSecure = false ∧ (s.el = .el0 ∨ s.el = .el1) := by
  simp only [State.twoStages, State.inEl10, Bool.and_eq_true, Bool.or_eq_true, Bool.not_eq_true', beq_iff_eq]
  tauto

theorem State.s1Enabled_of_twoStages {s : State} (h : s.twoStages = true) :
    s.s1Enabled = (!s.regs.hcrEl2.tge && !s.regs.hcrEl2.dc && s.regs.sctlrEl1.m) :=
  if_pos h

theorem State.s1Enabled_of_not_twoStages {s : State} (h : ¬ s.twoStages = true) : s.s1Enabled = s.sctlr.m :=
  if_neg h

theorem State.sctlr_of_el3 {s : State} (h : s.el = .el3) : s.sctlr = s.regs.sctlrEl3 := by
  simp only [State.sctlr, h]

theorem State.sctlr_of_el2 {s : State} (h : s.el = .el2) : s.sctlr = s.regs.sctlrEl2 := by
  simp only [State.sctlr, h]

theorem State.sctlr_of_el10 {s : State} (h : s.el = .el0 ∨ s.el = .el1) : s.sctlr = s.regs.sctlrEl1 := by
  obtain h | h := h <;> simp only [State.sctlr, h]

theorem State.s2Enabled_iff (s : State) :
    s.s2Enabled = true ↔ s.regs.hcrEl2.vm = true ∨ s.regs.hcrEl2.dc = true :=
  Bool.or_eq_true_iff

/-- Settles O22: the Non-secure EL1&0 regime with EL2 is `State.twoStages`; outside it the regime's own control
register decides. -/
theorem stageOneEnableConditions : Obligations.StageOneEnableConditions := by
  intro s
  refine ⟨fun h => ?_, fun h => ?_, s.s2Enabled_iff⟩
  · rw [State.s1Enabled_of_twoStages (s.twoStages_iff.mpr h)]
    simp only [Bool.and_eq_true, Bool.not_eq_true', and_assoc]
  · rw [State.s1Enabled_of_not_twoStages (mt s.twoStages_iff.mp h)]
    exact ⟨fun h3 => by rw [State.sctlr_of_el3 h3], fun h2 => by rw [State.sctlr_of_el2 h2],
      fun h10 => by rw [State.sctlr_of_el10 h10]⟩

/-! ### Unaligned data in Device memory (R136) -/

/-- The alignment check of stage 1 fails, and then the permission check and the fetch check see a fault and leave
it as it is. -/
theorem State.stage1Checks_of_misaligned_device (s : State) {req : Request} {r : TLBRecord} (ip : PAddr) (check : Bool)
    (ha : req.wasaligned = false) (hi : req.acctype ≠ .ifetch) (hf : r.addrdesc.isFault = false)
    (hd : r.addrdesc.memattrs.memtype = .device) :
    s.stage1Checks req r ip check =
      { r.addrdesc with fault := alignmentFault (s.unknown .alignS1) req.acctype req.iswrite false } := by
  have misaligned : (!req.wasaligned && req.acctype != .ifetch && !r.addrdesc.isFault &&
      r.addrdesc.memattrs.memtype == .device) = true := by
    simp [ha, hi, hf, hd]
  have notFetch : (req.acctype == .ifetch) = false := beq_false_of_ne hi
  have faulted (u : Unknown) : ((alignmentFault u req.acctype req.iswrite false).kind != .none) = true := rfl
  simp only [State.stage1Checks, if_pos misaligned, AddressDescriptor.isFault_mk, faulted, notFetch, Bool.not_true,
    Bool.false_and, Bool.false_eq_true, if_false]

/-- A fault of stage 1 is the call's result; stage 2 is not asked (R122, R123). -/
theorem State.afterStage1_of_fault (s : State) (req : Request) {ad : AddressDescriptor} (h : ad.isFault = true) :
    s.afterStage1 req ad = .next (s.finish ad) := by
  simp [State.afterStage1, h]

/-- Unaligned data ends the call with the Alignment fault when the record of its walk is one of Device memory. -/
theorem State.afterStage1_misaligned_device_ends (s : State) {req : Request} {r : TLBRecord} (ip : PAddr)
    (ha : req.wasaligned = false) (hi : req.acctype ≠ .ifetch) (hf : r.addrdesc.isFault = false)
    (hd : r.addrdesc.memattrs.memtype = .device) :
    EndsRecorded s ((s.record r).afterStage1 req ((s.record r).stage1Checks req r ip true))
      (· = alignmentFault (s.unknown .alignS1) req.acctype req.iswrite false) := by
  rw [State.stage1Checks_of_misaligned_device _ ip true ha hi hf hd, State.afterStage1_of_fault _ _ rfl]
  exact ⟨r, _, rfl, rfl⟩

@[simp] theorem memAttrDefaults_device_memtype (u : Unknown) (k : DeviceType) :
    (memAttrDefaults u (.device k)).memtype = .device := rfl

/-- The four Device rows give the attributes of their kind (R248). -/
theorem exec_mair_device {i : Instr}
    (h : i = .mairDeviceNGnRnE ∨ i = .mairDeviceNGnRE ∨ i = .mairDeviceNGRE ∨ i = .mairDeviceGRE) (s : State) :
    ∃ k, exec i s = s.onAttribute fun _ _ => .device k := by
  obtain rfl | rfl | rfl | rfl := h
  · exact ⟨.nGnRnE, rfl⟩
  · exact ⟨.nGnRE, rfl⟩
  · exact ⟨.nGRE, rfl⟩
  · exact ⟨.gre, rfl⟩

/-- A field that gives Device attributes ends the call of unaligned data with the Alignment fault. -/
theorem State.onAttribute_device_misaligned_ends {s : State} {spec : BitVec 2 → AccType → AttrSpec} {req : Request}
    {ip : PAddr} {r : TLBRecord} {sh : BitVec 2} {index : BitVec 3} {k : DeviceType}
    (hp : s.phase = .attr req ip r sh index) (hk : spec sh req.acctype = .device k) (ha : req.wasaligned = false)
    (hi : req.acctype ≠ .ifetch) (hf : r.addrdesc.isFault = false) :
    EndsRecorded s (s.onAttribute spec)
      (· = alignmentFault (s.unknown .alignS1) req.acctype req.iswrite false) := by
  rw [State.onAttribute_of_attr hp, hk]
  exact s.afterStage1_misaligned_device_ends ip ha hi hf (memAttrDefaults_device_memtype _ k)

theorem EndsRecorded.mono {s : State} {res : Result} {P Q : FaultRecord → Prop} (h : EndsRecorded s res P)
    (hPQ : ∀ f, P f → Q f) : EndsRecorded s res Q := by
  obtain ⟨rec, ad, hP, hres⟩ := h
  exact ⟨rec, ad, hPQ _ hP, hres⟩

/-- Settles O55: the alignment check decides for every Device record, and each Device row gives its record Device
attributes. -/
theorem misalignedDeviceDataFaults : Obligations.MisalignedDeviceDataFaults := by
  intro s req ha hi P
  have alignment (u : Unknown) : P (alignmentFault u req.acctype req.iswrite false) := ⟨rfl, rfl, rfl, rfl⟩
  refine ⟨fun r ip check hf hd => ?_, fun ip r sh index i hp hf hrow => ?_⟩
  · rw [State.stage1Checks_of_misaligned_device s ip check ha hi hf hd]
    exact alignment _
  · obtain ⟨k, hexec⟩ := exec_mair_device hrow s
    rw [hexec]
    refine (State.onAttribute_device_misaligned_ends hp rfl ha hi hf).mono ?_
    rintro _ rfl
    exact alignment _

end Sys2Proof.Machine
end

section
/-! PROOFS. Setting up a walk (sections A to D of spec/43_table_walk.md): the encodings of the control fields, the
limits of the input size, when a walk opens, and where it reads its descriptors. -/

namespace Sys2Proof.Machine

/-! ### The encodings of the granule and of the sizes (R103, R104, R190, R201) -/

/-- Settles O21: every constant is the model's own, so each part holds by evaluation. -/
theorem granuleConstants : Obligations.GranuleConstants :=
  ⟨fun _ => rfl, rfl, rfl, rfl, rfl, rfl, rfl, rfl, rfl, rfl⟩

theorem PaSize.bits_limit (a b : PaSize) :
    PaSize.bits (PaSize.limit a b) = min (PaSize.bits a) (PaSize.bits b) := by
  unfold PaSize.limit
  split <;> omega

/-- Settles O24: the fields are read value by value, and the limit is the smaller of two sizes. -/
theorem controlFieldEncodings : Obligations.ControlFieldEncodings :=
  ⟨rfl, rfl, rfl, rfl, rfl, rfl, rfl, rfl, rfl, fun _ _ => PaSize.bits_limit _ _⟩

/-! ### The limits of the input size (R185) -/

@[simp] theorem choose_fixed {α : Type} (c drawn : α) : choose (.fixed c) drawn = c := rfl

section
variable {cfg : Implementation} {u : Unknown} {n : Nat}

theorem limitInputSize_of_legal (h1 : 25 ≤ n) (h2 : n ≤ 48) : limitInputSize cfg u n = n := by
  simp only [limitInputSize, if_neg (Nat.not_lt.mpr h2), if_neg (Nat.not_lt.mpr h1)]

theorem limitInputSize_of_above_force (h : 48 < n) (hc : choose cfg.cuTszMax u.tszMax = .force) :
    limitInputSize cfg u n = 48 := by
  simp [limitInputSize, h, hc]

theorem limitInputSize_of_above_fault (h : 48 < n) (hc : choose cfg.cuTszMax u.tszMax = .fault) :
    limitInputSize cfg u n = n := by
  have legalBelow : ¬ n < 25 := by omega
  simp [limitInputSize, h, hc, legalBelow]

theorem limitInputSize_of_below_force (h : n < 25) (hc : choose cfg.cuTszMin u.tszMin = .force) :
    limitInputSize cfg u n = 25 := by
  have legalAbove : ¬ 48 < n := by omega
  simp [limitInputSize, h, hc, legalAbove]

theorem limitInputSize_of_below_fault (h : n < 25) (hc : choose cfg.cuTszMin u.tszMin = .fault) :
    limitInputSize cfg u n = n := by
  have legalAbove : ¬ 48 < n := by omega
  simp [limitInputSize, h, hc, legalAbove]

theorem limitInputSize_of_above (h : 48 < n) : limitInputSize cfg u n = 48 ∨ limitInputSize cfg u n = n := by
  cases hc : choose cfg.cuTszMax u.tszMax with
  | force => exact .inl (limitInputSize_of_above_force h hc)
  | fault => exact .inr (limitInputSize_of_above_fault h hc)

theorem limitInputSize_of_below (h : n < 25) : limitInputSize cfg u n = 25 ∨ limitInputSize cfg u n = n := by
  cases hc : choose cfg.cuTszMin u.tszMin with
  | force => exact .inl (limitInputSize_of_below_force h hc)
  | fault => exact .inr (limitInputSize_of_below_fault h hc)

end

/-! ### The stage 2 input size against the implemented size (R197) -/

/-- When the input size is checked against `PAMax()` at all. -/
theorem State.stage2Size_guard_iff (s : State) (n : Nat) :
    (decide (n > PaSize.bits s.cfg.pamax) && (!s.el1Aarch32 || decide (n > 40))) = true ↔
      PaSize.bits s.cfg.pamax < n ∧ (s.el1Aarch32 = false ∨ 40 < n) := by
  simp

section
variable {s : State} {u : Unknown} {n : Nat}

theorem State.stage2Size_of_within (h : ¬(PaSize.bits s.cfg.pamax < n ∧ (s.el1Aarch32 = false ∨ 40 < n))) :
    s.stage2Size u n = (n, n, true) := by
  rw [← s.stage2Size_guard_iff] at h
  simp only [State.stage2Size, if_neg h]

/-- One equation for each choice at an input size that exceeds `PAMax()`. -/
theorem State.stage2Size_of_exceeds (h : PaSize.bits s.cfg.pamax < n ∧ (s.el1Aarch32 = false ∨ 40 < n)) :
    (choose s.cfg.cuS2InputsizePamax u.s2Size = .force →
      s.stage2Size u n = (PaSize.bits s.cfg.pamax, PaSize.bits s.cfg.pamax, true)) ∧
    (choose s.cfg.cuS2InputsizePamax u.s2Size = .forceNoSlCheck →
      s.stage2Size u n = (PaSize.bits s.cfg.pamax, n, true)) ∧
    (choose s.cfg.cuS2InputsizePamax u.s2Size = .fault → s.stage2Size u n = (n, n, false)) := by
  rw [← s.stage2Size_guard_iff] at h
  refine ⟨fun hc => ?_, fun hc => ?_, fun hc => ?_⟩ <;> simp only [State.stage2Size, if_pos h, hc]

end

/-- Settles O26: the choice decides when the size exceeds `PAMax()`, and a free choice is one of the three. -/
theorem stageTwoSizeAgainstImplementedSize : Obligations.StageTwoSizeAgainstImplementedSize := by
  intro s u n
  refine ⟨State.stage2Size_of_within, fun h => ?_⟩
  obtain ⟨hforce, hnocheck, hfault⟩ := State.stage2Size_of_exceeds (u := u) h
  have hrefused (hc : choose s.cfg.cuS2InputsizePamax u.s2Size = .fault) : (s.stage2Size u n).2.2 = false := by
    rw [hfault hc]
  refine ⟨fun hp => hforce (by rw [hp, choose_fixed]), fun hp => hnocheck (by rw [hp, choose_fixed]),
    fun hp => hrefused (by rw [hp, choose_fixed]), ?_⟩
  cases hc : choose s.cfg.cuS2InputsizePamax u.s2Size with
  | force => exact .inl (hforce hc)
  | forceNoSlCheck => exact .inr (.inl (hnocheck hc))
  | fault => exact .inr (.inr (hrefused hc))

/-! ### When a walk opens (R187, R199 to R205) -/

section
variable {pamax : PaSize} {p : WalkParams} {attrs : MemoryAttributes} {ip : PAddr} {ia : Word} {n : Nat}
  {found : Bool} {l0 : Int} {l : Level}

theorem openWalk_of_not_found (h : found = false ∨ p.disabled = true) :
    openWalk pamax p attrs ip ia n found l0 = .error .translation := by
  have hclosed : (found && !p.disabled) = false := by
    obtain h | h := h <;> simp [h]
  simp only [openWalk, hclosed]

theorem openWalk_of_base_too_wide (hf : found = true) (hd : p.disabled = false) (hl : levelOfInt l0 = some l)
    (hb : 2 ^ PaSize.bits (PaSize.limit (psSize p.ps) pamax) ≤ p.baseregister.toNat % 2 ^ 48) :
    openWalk pamax p attrs ip ia n found l0 = .error .addressSize := by
  have hwide := (baseTooWide_iff _ _).mpr hb
  simp [openWalk, hf, hd, hl, hwide]

theorem openWalk_of_base_fits (hf : found = true) (hd : p.disabled = false) (hl : levelOfInt l0 = some l)
    (hb : p.baseregister.toNat % 2 ^ 48 < 2 ^ PaSize.bits (PaSize.limit (psSize p.ps) pamax)) :
    openWalk pamax p attrs ip ia n found l0 =
      .ok
        { ipaddress := ip, inputaddr := ia, granule := p.granule, inputsize := n,
          outputsize := PaSize.limit (psSize p.ps) pamax, level := l,
          baseaddress := tableBase p.baseregister n p.granule l, nsTable := !p.lookupsecure, apTable := 0,
          xnTable := false, pxnTable := false, addrselecttop := n - 1,
          reversedescriptors := p.reversedescriptors, singlepriv := p.singlepriv, memattrs := attrs } := by
  have hfits := mt (baseTooWide_iff _ _).mp (Nat.not_le.mpr hb)
  simp [openWalk, hf, hd, hl, hfits]

end

theorem State.addrTop_ge (s : State) (v : Word) : 48 ≤ s.addrTop v := by
  obtain h | h := s.addrTop_cases v <;> omega

/-- A size out of range is never in the range of addresses. -/
theorem inRange_of_illegal (upper : Bool) (v : Word) (top : Nat) {n : Nat} (h : ¬(25 ≤ n ∧ n ≤ 48)) :
    inRange upper v top n = false := by
  have hsize : (decide (25 ≤ n) && decide (n ≤ 48)) = false := by simpa using h
  simp only [inRange, hsize, Bool.false_and]

/-- Settles O25: a walk opens with the limited size, both stages check its range, and the limits are those of
`limitInputSize`. -/
theorem inputSizeLimits : Obligations.InputSizeLimits := by
  refine ⟨fun s va ip => ⟨fun w h => ?_, fun h => ?_⟩, fun s ipa => ⟨fun w h hn => ?_, fun h => ?_⟩, fun cfg u n => ?_⟩
  · obtain ⟨-, -, l, -, -, rfl⟩ := openWalk_ok h
    rfl
  · exact openWalk_of_not_found (.inl (inRange_of_illegal _ _ _ h))
  · obtain ⟨-, -, l, -, -, rfl⟩ := openWalk_ok h
    have hsize := State.stage2Size_of_within (u := s.unknown .walkS2) (mt And.left (Nat.not_lt.mpr hn))
    exact congrArg Prod.fst hsize
  · refine openWalk_of_not_found (.inl ?_)
    have hillegal := inRange_of_illegal false (ipa.setWidth 64) 63 h
    simp only [State.paramsStage2, hillegal, Bool.false_and]
  · exact ⟨limitInputSize_of_legal,
      fun h => ⟨fun hp => limitInputSize_of_above_force h (by rw [hp, choose_fixed]),
        fun hp => limitInputSize_of_above_fault h (by rw [hp, choose_fixed]), limitInputSize_of_above h⟩,
      fun h => ⟨fun hp => limitInputSize_of_below_force h (by rw [hp, choose_fixed]),
        fun hp => limitInputSize_of_below_fault h (by rw [hp, choose_fixed]), limitInputSize_of_below h⟩⟩

/-- Settles O27: the range check and the starting level as numbers decide what `openWalk` answers. -/
theorem stageOneWalkSetup : Obligations.StageOneWalkSetup := by
  intro s va ip p n span found out base
  have hrange : inRange p.upper va (s.addrTop va) n = true ↔ found := inRange_iff _ _ (s.addrTop_ge va)
  refine ⟨fun h => ?_, fun hf hd hb => ?_, fun hf hd hb => ?_⟩
  · exact openWalk_of_not_found (h.imp_left fun hf => Bool.eq_false_iff.mpr (mt hrange.mp hf))
  · obtain ⟨l, hl, -⟩ := startLevelS1_spec p.granule hf.1 hf.2.1
    exact openWalk_of_base_too_wide (hrange.mpr hf) hd hl hb
  · obtain ⟨l, hl, hbottom, hstride⟩ := startLevelS1_spec p.granule hf.1 hf.2.1
    refine ⟨l, hbottom, hstride, ?_⟩
    intro lower
    have hbase : BitVec.ofNat 48 (base / 2 ^ lower * 2 ^ lower) = tableBase p.baseregister n p.granule l :=
      (tableBase_eq ..).symm
    rw [hbase]
    exact openWalk_of_base_fits (hrange.mpr hf) hd hl hb

/-! ### The descriptor address (R206) -/

/-- The index of a table, scaled, is below the size of the table. -/
theorem scaled_index_lt (v : Word) (top bottom : Nat) : 8 * indexNat v top bottom < 2 ^ (3 + (top + 1 - bottom)) := by
  have hindex : indexNat v top bottom < 2 ^ (top + 1 - bottom) := Nat.mod_lt _ (Nat.two_pow_pos _)
  rw [Nat.pow_add]
  omega

/-- OR is addition in a table that is aligned to its size. -/
theorem entryAddress_toNat_of_aligned {w : Walk} {q k : Nat} (hq : w.baseaddress.toNat = q * 2 ^ k)
    (hk : 3 + (w.addrselecttop + 1 - addrselectbottom w.granule w.level) = k) (hk48 : k ≤ 48) :
    (entryAddress w).toNat =
      w.baseaddress.toNat + 8 * indexNat w.inputaddr w.addrselecttop (addrselectbottom w.granule w.level) := by
  have hindex := scaled_index_lt w.inputaddr w.addrselecttop (addrselectbottom w.granule w.level)
  rw [hk] at hindex
  have hsmall := Nat.lt_of_lt_of_le hindex (Nat.pow_le_pow_right (by omega) hk48)
  rw [entryAddress, BitVec.toNat_or, BitVec.toNat_ofNat, Nat.mod_eq_of_lt hsmall, hq]
  exact mul_pow_or _ _ _ hindex

theorem tableBase_toNat (b : Word) (n : Nat) (g : Granule) (l : Level) :
    ∃ q, (tableBase b n g l).toNat = q * 2 ^ (3 + n - addrselectbottom g l) :=
  ⟨_, clearLow_toNat _ _⟩

/-- At the first lookup the base register has been aligned to the size of the starting table (R203). -/
theorem openWalk_entryAddress_toNat {pamax : PaSize} {p : WalkParams} {attrs : MemoryAttributes} {ip : PAddr}
    {ia : Word} {n : Nat} {found : Bool} {l0 : Int} {w : Walk}
    (h : openWalk pamax p attrs ip ia n found l0 = .ok w) (hok : walkOk w = true) :
    (entryAddress w).toNat =
      w.baseaddress.toNat + 8 * indexNat w.inputaddr w.addrselecttop (addrselectbottom w.granule w.level) := by
  obtain ⟨-, -, l, -, -, rfl⟩ := openWalk_ok h
  simp only [walkOk, Bool.and_eq_true, decide_eq_true_eq] at hok
  obtain ⟨⟨⟨⟨hmin, hmax⟩, -⟩, hbottom⟩, -⟩ := hok
  have hbottom12 := addrselectbottom_ge p.granule l
  obtain ⟨q, hq⟩ := tableBase_toNat p.baseregister n p.granule l
  exact entryAddress_toNat_of_aligned hq (by simp only; omega) (by omega)

/-- The next table is one granule, aligned to it, and its index has `stride` bits (R213, R215). -/
theorem descend_entryAddress_toNat {w : Walk} (hl : w.level ≠ 3) (a : BitVec 36) (ns ro pv xn pxn : Bool) :
    let w' := descend w a ns ro pv xn pxn
    (entryAddress w').toNat =
      w'.baseaddress.toNat + 8 * indexNat w'.inputaddr w'.addrselecttop (addrselectbottom w'.granule w'.level) := by
  refine entryAddress_toNat_of_aligned (nextTableBase_toNat a w.granule) ?_ (by cases w.granule <;> decide)
  have hnext := addrselectbottom_next w.granule w.level hl
  have hbottom := addrselectbottom_ge w.granule (nextLevel w.level)
  have hstride : stride w.granule + 3 = grainsize w.granule := by cases w.granule <;> rfl
  simp only [descend_addrselecttop, descend_granule, descend_level]
  omega

/-- Settles O29: the two openings and the table descriptor leave a base aligned to the table. -/
theorem descriptorAddressIsBasePlusIndex : Obligations.DescriptorAddressIsBasePlusIndex := by
  refine ⟨fun _ _ => rfl, descriptorAddress_eq, fun w h => ?_⟩
  obtain ⟨s, va, ip, h⟩ | ⟨s, ipa, h⟩ | ⟨w0, a, ns, ro, pv, xn, pxn, hl, rfl⟩ := h
  · exact openWalk_entryAddress_toNat h (State.openStage1_ok h).1
  · exact openWalk_entryAddress_toNat h (State.openStage2_ok h).1
  · exact descend_entryAddress_toNat hl a ns ro pv xn pxn

end Sys2Proof.Machine
end

section
/-! PROOFS. The descriptors of a walk (sections E to G of spec/43_table_walk.md): a block at a level that allows none,
the tables, and the checks and the record of a block or page. -/

namespace Sys2Proof.Machine

/-! ### Which rows fit a walk, and what carries them out -/

section
variable {w : Walk} {target : Target}

theorem fitsContext_descBlockNotAllowed (target : Target) (h : w.level.val < firstblocklevel w.granule) :
    fitsContext (walkContext w target) .descBlockNotAllowed = true :=
  decide_eq_true h

theorem walkContext_stage_of_secondstage (w : Walk) (h : target.secondstage = true) :
    (walkContext w target).stage = .s2 := by
  simp only [walkContext, if_pos h]

theorem walkContext_stage_of_singlepriv (h : w.singlepriv = true) : (walkContext w .stage1).stage = .s1El2El3 := by
  simp only [walkContext, Target.secondstage, Bool.false_eq_true, if_false, if_pos h]

theorem walkContext_stage_of_not_singlepriv (h : w.singlepriv = false) :
    (walkContext w .stage1).stage = .s1El10 := by
  simp only [walkContext, Target.secondstage, Bool.false_eq_true, if_false, h]

theorem fitsContext_descTableS1El10 (t : TableS1El10) (hl : w.level ≠ 3) (hs : w.singlepriv = false) :
    fitsContext (walkContext w .stage1) (.descTableS1El10 t) = true := by
  simp only [fitsContext, walkContext_stage_of_not_singlepriv hs, Bool.and_eq_true, bne_iff_ne]
  exact ⟨hl, rfl⟩

theorem fitsContext_descTableS1El2El3 (t : TableS1El2El3) (hl : w.level ≠ 3) (hs : w.singlepriv = true) :
    fitsContext (walkContext w .stage1) (.descTableS1El2El3 t) = true := by
  simp only [fitsContext, walkContext_stage_of_singlepriv hs, Bool.and_eq_true, bne_iff_ne]
  exact ⟨hl, rfl⟩

theorem fitsContext_descTableS2 (a : BitVec 36) (hl : w.level ≠ 3) (hs : target.secondstage = true) :
    fitsContext (walkContext w target) (.descTableS2 a) = true := by
  simp only [fitsContext, walkContext_stage_of_secondstage w hs, Bool.and_eq_true, bne_iff_ne]
  exact ⟨hl, rfl⟩

/-- A block or page of stage 1 stands at a level where blocks are allowed. -/
theorem firstblocklevel_le_of_fits_leafS1 {f : LeafS1} {i : Instr} (hi : i = .descBlockS1 f ∨ i = .descPageS1 f)
    (hf : fitsContext (walkContext w target) i = true) : firstblocklevel w.granule ≤ w.level.val := by
  obtain rfl | rfl := hi
  · simp only [fitsContext, Bool.and_eq_true] at hf
    obtain ⟨⟨-, hblock⟩, -⟩ := hf
    exact of_decide_eq_true hblock
  · simp only [fitsContext, walkContext, Bool.and_eq_true, beq_iff_eq] at hf
    obtain ⟨hlevel, -⟩ := hf
    rw [hlevel]
    cases w.granule <;> decide

end

theorem exec_descBlockNotAllowed (s : State) : exec .descBlockNotAllowed s = s.invalidDescriptor .descBlockNotAllowed :=
  rfl
theorem exec_descTableS1El10 (t : TableS1El10) (s : State) :
    exec (.descTableS1El10 t) s = s.tableDescriptor (.descTableS1El10 t) t.addr t.ns t.apRo t.apPriv t.xn t.pxn := rfl
theorem exec_descTableS1El2El3 (t : TableS1El2El3) (s : State) :
    exec (.descTableS1El2El3 t) s = s.tableDescriptor (.descTableS1El2El3 t) t.addr t.ns t.apRo false t.xn false := rfl
theorem exec_descTableS2 (a : BitVec 36) (s : State) :
    exec (.descTableS2 a) s = s.tableDescriptor (.descTableS2 a) a false false false false false := rfl

/-! ### A block where none is allowed (R217) -/

/-- Settles O36: `firstblocklevel` is at most 2, so the level is not 3 and such a word decodes to this row. -/
theorem blockNotAllowedFaults : Obligations.BlockNotAllowedFaults := by
  intro s req w target d hp hb
  have notAllowed : Ends s (exec .descBlockNotAllowed s) (levelFault .translation req w target) := by
    rw [exec_descBlockNotAllowed]
    exact State.invalidDescriptor_ends hp (fitsContext_descBlockNotAllowed target hb)
  have hlevel : w.level ≠ 3 := by
    intro hl
    rw [hl] at hb
    cases hg : w.granule <;> simp [hg, firstblocklevel] at hb
  refine ⟨fun v h01 => ?_, notAllowed⟩
  rw [decodeDescriptor_blockNotAllowed h01 hlevel hb]
  exact notAllowed

/-! ### A table whose address is too wide (R212) -/

section
variable {s : State} {req : Request} {w : Walk} {target : Target} {d : AddressDescriptor} {i : Instr} {a : BitVec 36}

theorem addrField_too_wide_iff (a : BitVec 36) (o : PaSize) :
    addressTooWide (addrField a) o = true ↔ 2 ^ PaSize.bits o ≤ a.toNat * 4096 := by
  rw [addressTooWide_iff, addrField_toNat]

theorem State.tableDescriptor_too_wide_ends (hp : s.phase = .walking req w target d)
    (hf : fitsContext (walkContext w target) i = true) (ha : 2 ^ PaSize.bits w.outputsize ≤ a.toNat * 4096)
    (ns ro pv xn pxn : Bool) :
    Ends s (s.tableDescriptor i a ns ro pv xn pxn) (levelFault .addressSize req w target) := by
  rw [State.tableDescriptor, State.onDescriptor_of_fits hp hf, if_pos ((addrField_too_wide_iff a _).mpr ha)]
  exact s.finishFault_ends .addressSize req w target

theorem State.tableDescriptor_of_address_fits (hp : s.phase = .walking req w target d)
    (hf : fitsContext (walkContext w target) i = true) (ha : a.toNat * 4096 < 2 ^ PaSize.bits w.outputsize)
    (ns ro pv xn pxn : Bool) :
    s.tableDescriptor i a ns ro pv xn pxn = s.enterLevel req (descend w a ns ro pv xn pxn) target := by
  rw [State.tableDescriptor, State.onDescriptor_of_fits hp hf,
    if_neg (mt (addrField_too_wide_iff a _).mp (Nat.not_le.mpr ha))]

end

/-- Bits [47:12] of a word in place are as wide as its bits [47:0], since every output size is above 12 bits. -/
theorem address_bits_too_wide {v : Word} {o : PaSize} (h : 2 ^ PaSize.bits o ≤ v.toNat % 2 ^ 48) :
    2 ^ PaSize.bits o ≤ (v.extractLsb' 12 36).toNat * 4096 := by
  rw [BitVec.extractLsb'_toNat, Nat.shiftRight_eq_div_pow]
  cases o <;> simp only [PaSize.bits] at h ⊢ <;> omega

/-- Settles O37: each of the three rows faults, and a table word decodes to the row of its stage and regime. -/
theorem tableAddressTooWideFaults : Obligations.TableAddressTooWideFaults := by
  intro s req w target d hp hl
  have el10 (t : TableS1El10) (ht : target = .stage1) (hs : w.singlepriv = false)
      (ha : 2 ^ PaSize.bits w.outputsize ≤ t.addr.toNat * 4096) :
      Ends s (exec (.descTableS1El10 t) s) (levelFault .addressSize req w target) := by
    subst ht
    exact State.tableDescriptor_too_wide_ends hp (fitsContext_descTableS1El10 t hl hs) ha ..
  have el2El3 (t : TableS1El2El3) (ht : target = .stage1) (hs : w.singlepriv = true)
      (ha : 2 ^ PaSize.bits w.outputsize ≤ t.addr.toNat * 4096) :
      Ends s (exec (.descTableS1El2El3 t) s) (levelFault .addressSize req w target) := by
    subst ht
    exact State.tableDescriptor_too_wide_ends hp (fitsContext_descTableS1El2El3 t hl hs) ha ..
  have stage2 (a : BitVec 36) (hs : target.secondstage = true) (ha : 2 ^ PaSize.bits w.outputsize ≤ a.toNat * 4096) :
      Ends s (exec (.descTableS2 a) s) (levelFault .addressSize req w target) :=
    State.tableDescriptor_too_wide_ends hp (fitsContext_descTableS2 a hl hs) ha ..
  refine ⟨fun v h11 hv => ?_, el10, el2El3, stage2⟩
  have ha := address_bits_too_wide hv
  cases target with
  | stage1 =>
    cases hs : w.singlepriv with
    | false =>
      rw [decodeDescriptor_tableS1El10 h11 hl (walkContext_stage_of_not_singlepriv hs)]
      exact el10 _ rfl hs ha
    | true =>
      rw [decodeDescriptor_tableS1El2El3 h11 hl (walkContext_stage_of_singlepriv hs)]
      exact el2El3 _ rfl hs ha
  | access | table =>
    rw [decodeDescriptor_tableS2 h11 hl (walkContext_stage_of_secondstage w rfl)]
    exact stage2 _ rfl ha

/-! ### The next level (R207, R213 to R215) -/

theorem nextTableBase_eq (a : BitVec 36) (g : Granule) :
    nextTableBase a g = BitVec.ofNat 48 (a.toNat * 4096 / 2 ^ grainsize g * 2 ^ grainsize g) := by
  rw [← nextTableBase_toNat, BitVec.ofNat_toNat, BitVec.setWidth_eq]

theorem nextLevel_eq_add_one {l : Level} (h : l ≠ 3) : nextLevel l = l + 1 := by
  revert l
  decide

/-- The walk after a table descriptor, field by field. -/
theorem descend_eq {w : Walk} (hl : w.level ≠ 3) (a : BitVec 36) (ns ro pv xn pxn : Bool) :
    descend w a ns ro pv xn pxn =
      { w with
        baseaddress := BitVec.ofNat 48 (a.toNat * 4096 / 2 ^ grainsize w.granule * 2 ^ grainsize w.granule)
        nsTable := w.nsTable || ns
        apTable := w.apTable ||| (BitVec.ofBool ro ++ BitVec.ofBool pv)
        xnTable := w.xnTable || xn
        pxnTable := w.pxnTable || pxn
        level := w.level + 1
        addrselecttop := addrselectbottom w.granule w.level - 1 } := by
  simp only [descend, nextTableBase_eq, nextLevel_eq_add_one hl]

/-- A walk at the address of its own descriptor reads it there. -/
theorem State.atDescriptor_descaddr_reads (s : State) (req : Request) (w : Walk) (target : Target) (u : Unknown) :
    ReadsNext s req w target (.next (s.atDescriptor req w target (descaddr u w))) :=
  ⟨{ descaddr u w with vaddress := req.vaddress }, rfl, descriptorAddress_eq w, rfl, rfl, rfl⟩

/-- A fault return ends the call with the fault it is given (R229). -/
theorem State.finishFault_ends_with (s : State) (target : Target) (f : FaultRecord) :
    Ends s (.next (s.finishFault target f)) (· = f) := by
  cases target with
  | stage1 | access | table => exact ⟨faultDescriptor _ f, rfl, rfl⟩

/-- Whose stage 2 walk it is: the access's, or the suspended stage 1 walk's. -/
abbrev stage2Target (s1 : AddressDescriptor) (outer : Option Walk) : Target :=
  outer.elim (.access s1) (fun w => .table w s1)

section
variable {s : State} {req : Request} {s1 : AddressDescriptor} {outer : Option Walk}

/-- With EL2 not using AArch32 the assertion of a stage 2 walk holds in its regime (R181). -/
theorem State.s2WalkAssert_of_twoStages (h : s.twoStages = true) (ha : s.el2Aarch32 = false) :
    s.s2WalkAssert = true := by
  obtain ⟨hel2, hsecure, hel⟩ := s.twoStages_iff.mp h
  obtain hel | hel := hel <;> simp [State.s2WalkAssert, hel2, hsecure, ha, hel]

theorem State.secondStage_of_off (h : s.twoStages = true) (he : s.s2Enabled = false) (w : Walk) :
    s.secondStage req s1 (some w) = .next (s.atDescriptor req w .stage1 s1) := by
  simp [State.secondStage, h, he]

theorem State.secondStage_of_error (h : s.twoStages = true) (he : s.s2Enabled = true) (ha : s.el2Aarch32 = false)
    {k : FaultKind} (hk : s.openStage2 s1.paddress.physicaladdress = .error k) :
    s.secondStage req s1 outer =
      .next (s.finishFault (stage2Target s1 outer)
        (faultRecord k s1.paddress.physicaladdress 0 req.acctype req.iswrite true
          (stage2Target s1 outer).s2fs1walk)) := by
  cases outer <;> simp [State.secondStage, h, he, State.s2WalkAssert_of_twoStages h ha, hk]

theorem State.secondStage_of_ok (h : s.twoStages = true) (he : s.s2Enabled = true) (ha : s.el2Aarch32 = false)
    {w2 : Walk} (hw : s.openStage2 s1.paddress.physicaladdress = .ok w2) :
    s.secondStage req s1 outer =
      .next (s.atDescriptor req w2 (stage2Target s1 outer) (descaddr (s.unknown .descAddrS2) w2)) := by
  cases outer <;> simp [State.secondStage, h, he, State.s2WalkAssert_of_twoStages h ha, hw]

/-- Stage 2 takes the address of stage 1, for the access and for a descriptor of the walk alike (R160 to R165). -/
theorem State.secondStage_takes {whenOff : Prop} (h : s.twoStages = true) (hoff : s.s2Enabled = false → whenOff) :
    Stage2Takes s req s1.paddress.physicaladdress (stage2Target s1 outer) whenOff (s.secondStage req s1 outer) := by
  refine ⟨hoff, fun he ha => ⟨fun w2 hw => ?_, fun k hk => ?_⟩⟩
  · rw [State.secondStage_of_ok h he ha hw]
    exact s.atDescriptor_descaddr_reads req w2 _ _
  · rw [State.secondStage_of_error h he ha hk]
    exact s.finishFault_ends_with _ _

end

/-- Stage 2 translates the address of a stage 1 descriptor exactly in the regime with two stages (R207): EL3 is
Secure. -/
theorem State.enterStage1_guard (s : State) :
    (s.isSecure || s.el == .el2 || !s.cfg.haveEl2) = !s.twoStages := by
  cases hel : s.el with
  | el0 | el1 => cases hsecure : s.isSecure <;> simp [State.twoStages, State.inEl10, hel, hsecure]
  | el2 => simp [State.twoStages, State.inEl10, hel]
  | el3 => simp [State.twoStages, State.inEl10, State.isSecure, hel]

theorem State.enterStage1_of_oneStage {s : State} {req : Request} {w : Walk} (h : s.twoStages = false) :
    s.enterStage1 req w = .next (s.atDescriptor req w .stage1 (descaddr (s.unknown .descAddrS1) w)) := by
  simp only [State.enterStage1, s.enterStage1_guard, h, Bool.not_false, if_true]

theorem State.enterStage1_of_twoStages {s : State} {req : Request} {w : Walk} (h : s.twoStages = true) :
    s.enterStage1 req w = s.secondStage req (descaddr (s.unknown .descAddrS1) w) (some w) := by
  simp only [State.enterStage1, s.enterStage1_guard, h, Bool.not_true, Bool.false_eq_true, if_false]

/-- A stage 1 walk goes on to its next descriptor. -/
theorem State.enterStage1_readsNext (s : State) (req : Request) (w : Walk) :
    Stage1ReadsNext s req w (s.enterStage1 req w) := by
  refine ⟨fun h => ?_, fun h => ?_⟩
  · rw [State.enterStage1_of_oneStage h]
    exact s.atDescriptor_descaddr_reads ..
  · rw [State.enterStage1_of_twoStages h]
    have hp := descriptorAddress_eq w
    refine ⟨descaddr (s.unknown .descAddrS1) w, rfl, hp, ?_⟩
    have htakes := State.secondStage_takes (req := req) (s1 := descaddr (s.unknown .descAddrS1) w) (outer := some w)
      (whenOff := ReadsNext s req w .stage1 (s.secondStage req (descaddr (s.unknown .descAddrS1) w) (some w))) h
      fun he => by
        rw [State.secondStage_of_off h he]
        exact s.atDescriptor_descaddr_reads ..
    rwa [descaddr_paddress, hp] at htakes

/-- Settles O38: the row gives all its fields to `descend`. -/
theorem tableS1El10GoesToNextLevel : Obligations.TableS1El10GoesToNextLevel := by
  intro s req w d t hp hl hs ha
  rw [exec_descTableS1El10, State.tableDescriptor_of_address_fits hp (fitsContext_descTableS1El10 t hl hs) ha,
    ← descend_eq hl]
  exact s.enterStage1_readsNext req _

/-- Settles O39: the two bits that the row does not read are FALSE, and OR with FALSE changes nothing. -/
theorem tableS1El2El3GoesToNextLevel : Obligations.TableS1El2El3GoesToNextLevel := by
  intro s req w d t hp hl hs ha
  have hwalk := descend_eq hl t.addr t.ns t.apRo false t.xn false
  rw [Bool.or_false] at hwalk
  rw [exec_descTableS1El2El3, State.tableDescriptor_of_address_fits hp (fitsContext_descTableS1El2El3 t hl hs) ha,
    hwalk]
  exact s.enterStage1_readsNext req _

/-- At stage 2 the next descriptor is read at its own address (R207). -/
theorem State.enterLevel_secondstage_reads (s : State) (req : Request) (w : Walk) {target : Target}
    (h : target.secondstage = true) : ReadsNext s req w target (s.enterLevel req w target) := by
  cases target with
  | stage1 => cases h
  | access | table => exact s.atDescriptor_descaddr_reads ..

/-- Settles O40: the row reads none of bits [63:59], and OR with FALSE changes nothing. -/
theorem tableS2GoesToNextLevel : Obligations.TableS2GoesToNextLevel := by
  intro s req w target d a hp hl hs ha
  have hwalk := descend_eq hl a false false false false false
  have hap : w.apTable ||| (BitVec.ofBool false ++ BitVec.ofBool false) = w.apTable := BitVec.or_zero
  simp only [Bool.or_false, hap] at hwalk
  rw [exec_descTableS2, State.tableDescriptor_of_address_fits hp (fitsContext_descTableS2 a hl hs) ha, hwalk]
  exact s.enterLevel_secondstage_reads req _ hs

/-! ### The checks of a block or page (R218 to R220) -/

theorem contiguousBitCheck_iff (w : Walk) : contiguousBitCheck w = true ↔ contiguousMisprogrammed w := by
  cases hg : w.granule <;> simp [contiguousBitCheck, contiguousMisprogrammed, hg]

section
variable {s : State} {w : Walk} {contiguous af : Bool} {addr : BitVec 36}

theorem State.contiguousFault_iff (s : State) (w : Walk) (contiguous : Bool) :
    (contiguousBitCheck w && contiguous && s.cfg.impdefContigFault) = true ↔
      contiguousMisprogrammed w ∧ contiguous = true ∧ s.cfg.impdefContigFault = true := by
  simp only [Bool.and_eq_true, contiguousBitCheck_iff, and_assoc]

theorem State.leafFault_of_contiguous
    (h : contiguousMisprogrammed w ∧ contiguous = true ∧ s.cfg.impdefContigFault = true) :
    s.leafFault w contiguous addr af = some .translation :=
  if_pos ((s.contiguousFault_iff w contiguous).mpr h)

/-- Past the contiguous bit the address is checked, then the access flag. -/
theorem State.leafFault_of_not_contiguous
    (h : ¬(contiguousMisprogrammed w ∧ contiguous = true ∧ s.cfg.impdefContigFault = true)) :
    s.leafFault w contiguous addr af =
      if addressTooWide (addrField addr) w.outputsize then some .addressSize
      else if !af then some .accessFlag else none :=
  if_neg (mt (s.contiguousFault_iff w contiguous).mp h)

theorem State.leafFault_of_too_wide
    (h : ¬(contiguousMisprogrammed w ∧ contiguous = true ∧ s.cfg.impdefContigFault = true))
    (ha : 2 ^ PaSize.bits w.outputsize ≤ addr.toNat * 4096) :
    s.leafFault w contiguous addr af = some .addressSize := by
  rw [State.leafFault_of_not_contiguous h, if_pos ((addrField_too_wide_iff addr _).mpr ha)]

theorem State.leafFault_of_address_fits
    (h : ¬(contiguousMisprogrammed w ∧ contiguous = true ∧ s.cfg.impdefContigFault = true))
    (ha : addr.toNat * 4096 < 2 ^ PaSize.bits w.outputsize) :
    s.leafFault w contiguous addr af = if !af then some .accessFlag else none := by
  rw [State.leafFault_of_not_contiguous h, if_neg (mt (addrField_too_wide_iff addr _).mp (Nat.not_le.mpr ha))]

theorem State.leafFault_of_passes (h : LeafPasses s w contiguous addr af) :
    s.leafFault w contiguous addr af = none := by
  obtain ⟨hc, ha, rfl⟩ := h
  exact State.leafFault_of_address_fits hc ha

end

section
variable {s : State} {req : Request} {w : Walk} {target : Target} {d : AddressDescriptor} {i : Instr} {k : FaultKind}

theorem State.leafS1_fault_ends {f : LeafS1} (hp : s.phase = .walking req w target d)
    (hf : fitsContext (walkContext w target) i = true) (hk : s.leafFault w f.contiguous f.addr f.af = some k) :
    Ends s (s.leafS1 i f) (levelFault k req w target) := by
  simp only [State.leafS1, State.onDescriptor_of_fits hp hf, hk]
  exact s.finishFault_ends k req w target

theorem State.leafS2_fault_ends {f : LeafS2} (hp : s.phase = .walking req w target d)
    (hf : fitsContext (walkContext w target) i = true) (hk : s.leafFault w f.contiguous f.addr f.af = some k) :
    Ends s (s.leafS2 i f) (levelFault k req w target) := by
  simp only [State.leafS2, State.onDescriptor_of_fits hp hf, hk]
  exact s.finishFault_ends k req w target

/-- The fault that the checks find ends the walk, in each of the four rows. -/
theorem exec_leaf_fault_ends {contiguous af : Bool} {addr : BitVec 36} (hp : s.phase = .walking req w target d)
    (hf : fitsContext (walkContext w target) i = true) (hi : leafFields i = some (contiguous, addr, af))
    (hk : s.leafFault w contiguous addr af = some k) : Ends s (exec i s) (levelFault k req w target) := by
  cases i with
  | descBlockS1 | descPageS1 =>
    cases hi
    exact State.leafS1_fault_ends hp hf hk
  | descBlockS2 | descPageS2 =>
    cases hi
    exact State.leafS2_fault_ends hp hf hk
  | _ => cases hi

end

/-- Settles O42: `leafFault` makes the three checks in this order. -/
theorem leafChecksInOrder : Obligations.LeafChecksInOrder := by
  intro s req w target d i contiguous addr af hp hf hi bad
  refine ⟨fun hb => ?_, fun hb ha => ?_, fun hb ha haf => ?_⟩
  · exact exec_leaf_fault_ends hp hf hi (State.leafFault_of_contiguous hb)
  · exact exec_leaf_fault_ends hp hf hi (State.leafFault_of_too_wide hb ha)
  · subst haf
    exact exec_leaf_fault_ends hp hf hi (State.leafFault_of_address_fits hb ha)

/-! ### The record of a stage 1 block or page (R221 to R226) -/

theorem State.leafS1_of_passes {s : State} {req : Request} {w : Walk} {target : Target} {d : AddressDescriptor}
    {i : Instr} {f : LeafS1} (hp : s.phase = .walking req w target d)
    (hf : fitsContext (walkContext w target) i = true) (h : LeafPasses s w f.contiguous f.addr f.af) :
    s.leafS1 i f = .next (s.goto (.attr req w.ipaddress (s.stage1Record w f) f.sh f.attrIndx)) := by
  simp only [State.leafS1, State.onDescriptor_of_fits hp hf, State.leafFault_of_passes h]

section
variable (s : State) (w : Walk) (f : LeafS1)

theorem stage1Perms_ap_zero : (stage1Perms w f).ap.getLsbD 0 = true := by
  simp only [stage1Perms, BitVec.getLsbD_append]
  simp

theorem stage1Perms_ap_one :
    (stage1Perms w f).ap.getLsbD 1 = (w.singlepriv || (f.ap.getLsbD 0 && !w.apTable.getLsbD 0)) := by
  simp only [stage1Perms, BitVec.getLsbD_append]
  simp

theorem stage1Perms_ap_two : (stage1Perms w f).ap.getLsbD 2 = (f.ap.getLsbD 1 || w.apTable.getLsbD 1) := by
  simp only [stage1Perms, BitVec.getLsbD_append]
  simp

theorem State.stage1Record_physicaladdress_toNat (h : firstblocklevel w.granule ≤ w.level.val) :
    (s.stage1Record w f).addrdesc.paddress.physicaladdress.toNat =
      outputNat f.addr w.inputaddr (addrselectbottom w.granule w.level) :=
  outputAddress_toNat _ _ ((addrselectbottom_le w.granule w.level h).trans (by decide))

/-- In the EL1&0 regime a Secure page of a Non-secure table is never global (R225). -/
theorem State.stage1NG_of_not_singlepriv (h : w.singlepriv = false) :
    s.stage1NG w f = if s.isSecure = true then f.nG || w.nsTable else f.nG := by
  cases hsecure : s.isSecure <;> simp [State.stage1NG, h, hsecure]

end

/-- Settles O43: the walk ends in `stage1Record`, whose fields are those of the rules. -/
theorem stageOneLeafGivesItsRecord : Obligations.StageOneLeafGivesItsRecord := by
  intro s req w d f i hp hi hf hpass
  have hexec : exec i s = s.leafS1 i f := by
    obtain rfl | rfl := hi <;> rfl
  have haddr := s.stage1Record_physicaladdress_toNat w f (firstblocklevel_le_of_fits_leafS1 hi hf)
  refine ⟨s.stage1Record w f, hexec.trans (State.leafS1_of_passes hp hf hpass), rfl, haddr, rfl, rfl, rfl, rfl, rfl,
    stage1Perms_ap_zero w f, stage1Perms_ap_two w f, fun hs => ⟨?_, ?_, ?_⟩, fun hs => ⟨?_, ?_, ?_⟩⟩
  · exact (stage1Perms_ap_one w f).trans (by rw [hs, Bool.false_or])
  · simp [State.stage1Record, stage1Perms, hs]
  · exact s.stage1NG_of_not_singlepriv w f hs
  · exact (stage1Perms_ap_one w f).trans (by rw [hs, Bool.true_or])
  · simp [State.stage1Record, stage1Perms, hs]
  · simp [State.stage1Record, State.stage1NG, hs]

end Sys2Proof.Machine
end

section
/-! PROOFS. `AArch64.CheckS2Permission` as one choice between its fault and no fault (spec/44_support.md section D). -/

namespace Sys2Proof.Machine

/-- Whether stage 2 forbids the access: `fail` of R262. -/
def s2Forbids (p : Permissions) (acctype : AccType) (iswrite s2fs1walk : Bool) : Bool :=
  if acctype = .ifetch ∧ s2fs1walk = false then p.xn
  else if iswrite = true ∧ s2fs1walk = false then !p.ap.getLsbD 2
  else !p.ap.getLsbD 1

/-- `fail` in the form of the obligation. -/
theorem s2Forbids_iff (p : Permissions) (acctype : AccType) (iswrite s2fs1walk : Bool) :
    s2Forbids p acctype iswrite s2fs1walk = true ↔
      if acctype = .ifetch ∧ s2fs1walk = false then p.xn = true
      else if iswrite = true ∧ s2fs1walk = false then p.ap.getLsbD 2 = false
      else p.ap.getLsbD 1 = false := by
  unfold s2Forbids
  split_ifs with hfetch hwrite
  · exact Iff.rfl
  · exact (Bool.not_eq_true' _).to_iff
  · exact (Bool.not_eq_true' _).to_iff

/-- A stage 1 descriptor's translation is checked as a read, whatever the access (R262). -/
theorem checkS2Permission_eq (u : Unknown) (p : Permissions) (ip : PAddr) (level : Int) (acctype : AccType)
    (iswrite s2fs1walk : Bool) :
    checkS2Permission u p ip level acctype iswrite s2fs1walk =
      if s2Forbids p acctype iswrite s2fs1walk = true then
        faultRecord .permission ip level acctype
          (if acctype = .ifetch ∧ s2fs1walk = false then u.faultWrite else iswrite && !s2fs1walk) true s2fs1walk
      else noFault u := by
  cases s2fs1walk with
  | true => simp [checkS2Permission, s2Forbids]
  | false =>
    by_cases hfetch : acctype = .ifetch
    · simp [checkS2Permission, s2Forbids, hfetch]
    · cases iswrite with
      | true | false => simp [checkS2Permission, s2Forbids, hfetch]

/-- Settles O46: `fails` selects the answer, and only a fetch's fault draws its `write`. -/
theorem stageTwoPermissionCheck : Obligations.StageTwoPermissionCheck := by
  intro u p ip level acctype iswrite s2fs1walk f fails
  have hf : f = _ := checkS2Permission_eq u p ip level acctype iswrite s2fs1walk
  have hiff : _ ↔ fails := s2Forbids_iff p acctype iswrite s2fs1walk
  refine ⟨fun hpass => ?_, fun hfail => ?_⟩
  · rw [hf, if_neg (mt hiff.mp hpass), noFault_kind]
  · rw [hf, if_pos (hiff.mpr hfail)]
    exact ⟨rfl, rfl, rfl, rfl, rfl, rfl, fun hdata => if_neg hdata⟩

end Sys2Proof.Machine
end

section
/-! PROOFS. Descriptors there and back (section 2 of spec/30_encoding.md): the fields of an encoded word, the word of
an encoded descriptor, and the context a decoded one fits. -/

namespace Sys2Proof.Machine

/-! ### The fields of an encoded word (R93, R95, R214, R227) -/

theorem decodeTableS1El10_encode (t : TableS1El10) : decodeTableS1El10 (encodeWord (.descTableS1El10 t)) = t := by
  simp (disch := decide) only [decodeTableS1El10, encodeWord, bit_append_low, bit_append_high, extract_append_low,
    extract_append_high, Nat.reduceSub, bit1_zero, extract_all]

theorem decodeTableS1El2El3_encode (t : TableS1El2El3) :
    decodeTableS1El2El3 (encodeWord (.descTableS1El2El3 t)) = t := by
  simp (disch := decide) only [decodeTableS1El2El3, encodeWord, bit_append_low, bit_append_high, extract_append_low,
    extract_append_high, Nat.reduceSub, bit1_zero, extract_all]

theorem decodeTableS2_encode (a : BitVec 36) : (encodeWord (.descTableS2 a)).extractLsb' 12 36 = a := by
  simp (disch := decide) only [encodeWord, extract_append_low, extract_append_high,
    Nat.reduceSub, extract_all]

theorem decodeLeafS1_encode (f : LeafS1) (low : BitVec 2) : decodeLeafS1 (encodeLeafS1 f low) = f := by
  simp (disch := decide) only [decodeLeafS1, encodeLeafS1, bit_append_low, bit_append_high, extract_append_low,
    extract_append_high, Nat.reduceSub, bit1_zero, extract_all]

theorem decodeLeafS2_encode (f : LeafS2) (low : BitVec 2) : decodeLeafS2 (encodeLeafS2 f low) = f := by
  simp (disch := decide) only [decodeLeafS2, encodeLeafS2, bit_append_low, bit_append_high, extract_append_low,
    extract_append_high, Nat.reduceSub, bit1_zero, extract_all]

/-- Bits [1:0] of a word put together from its fields. -/
theorem low_bits_append (x : BitVec 62) (low : BitVec 2) : (x ++ low : Word).extractLsb' 0 2 = low := by
  rw [extract_append_low _ _ (by decide), extract_all]

theorem low_bits_encodeLeafS1 (f : LeafS1) (low : BitVec 2) : (encodeLeafS1 f low).extractLsb' 0 2 = low :=
  low_bits_append _ low

theorem low_bits_encodeLeafS2 (f : LeafS2) (low : BitVec 2) : (encodeLeafS2 f low).extractLsb' 0 2 = low :=
  low_bits_append _ low

/-- The three table rows end in '11' (R93). -/
theorem low_bits_table {i : Instr}
    (h : (∃ t, i = .descTableS1El10 t) ∨ (∃ t, i = .descTableS1El2El3 t) ∨ ∃ a, i = .descTableS2 a) :
    (encodeWord i).extractLsb' 0 2 = 0b11 := by
  obtain ⟨t, rfl⟩ | ⟨t, rfl⟩ | ⟨a, rfl⟩ := h
  · exact low_bits_append _ 0b11#2
  · exact low_bits_append _ 0b11#2
  · exact low_bits_append _ 0b11#2

/-! ### Decoding an encoded descriptor -/

/-- Blocks are allowed at level 2 at the latest (R190). -/
theorem level_ne_three_of_lt_firstblocklevel {g : Granule} {l : Level} (h : l.val < firstblocklevel g) : l ≠ 3 := by
  rintro rfl
  revert h
  cases g <;> decide

/-- A term that fits its context decodes from its word: bits [1:0] give the kind, the kind gives the fields. -/
theorem decodeDescriptor_encodeWord {c : DescContext} {i : Instr} (hf : fitsContext c i = true) :
    decodeDescriptor c (encodeWord i) = i := by
  cases i with
  | descInvalid => exact decodeDescriptor_invalid c rfl
  | descReservedL3 => exact decodeDescriptor_reservedL3 rfl (beq_iff_eq.mp hf)
  | descBlockNotAllowed =>
    have hb : c.level.val < firstblocklevel c.granule := of_decide_eq_true hf
    exact decodeDescriptor_blockNotAllowed rfl (level_ne_three_of_lt_firstblocklevel hb) hb
  | descTableS1El10 t =>
    simp only [fitsContext, Bool.and_eq_true, bne_iff_ne, beq_iff_eq] at hf
    obtain ⟨hl, hs⟩ := hf
    exact (decodeDescriptor_tableS1El10 (v := encodeWord _) (low_bits_table (.inl ⟨t, rfl⟩)) hl hs).trans
      (congrArg Instr.descTableS1El10 (decodeTableS1El10_encode t))
  | descTableS1El2El3 t =>
    simp only [fitsContext, Bool.and_eq_true, bne_iff_ne, beq_iff_eq] at hf
    obtain ⟨hl, hs⟩ := hf
    exact (decodeDescriptor_tableS1El2El3 (v := encodeWord _) (low_bits_table (.inr (.inl ⟨t, rfl⟩))) hl hs).trans
      (congrArg Instr.descTableS1El2El3 (decodeTableS1El2El3_encode t))
  | descTableS2 a =>
    simp only [fitsContext, Bool.and_eq_true, bne_iff_ne, beq_iff_eq] at hf
    obtain ⟨hl, hs⟩ := hf
    exact (decodeDescriptor_tableS2 (v := encodeWord _) (low_bits_table (.inr (.inr ⟨a, rfl⟩))) hl hs).trans
      (congrArg Instr.descTableS2 (decodeTableS2_encode a))
  | descBlockS1 f =>
    simp only [fitsContext, Bool.and_eq_true, bne_iff_ne, decide_eq_true_eq] at hf
    obtain ⟨⟨hl, hb⟩, hs⟩ := hf
    exact (decodeDescriptor_blockS1 (low_bits_encodeLeafS1 f _) hl hb hs).trans
      (congrArg Instr.descBlockS1 (decodeLeafS1_encode f _))
  | descPageS1 f =>
    simp only [fitsContext, Bool.and_eq_true, bne_iff_ne, beq_iff_eq] at hf
    obtain ⟨hl, hs⟩ := hf
    exact (decodeDescriptor_pageS1 (low_bits_encodeLeafS1 f _) hl hs).trans
      (congrArg Instr.descPageS1 (decodeLeafS1_encode f _))
  | descBlockS2 f =>
    simp only [fitsContext, Bool.and_eq_true, bne_iff_ne, decide_eq_true_eq, beq_iff_eq] at hf
    obtain ⟨⟨hl, hb⟩, hs⟩ := hf
    exact (decodeDescriptor_blockS2 (low_bits_encodeLeafS2 f _) hl hb hs).trans
      (congrArg Instr.descBlockS2 (decodeLeafS2_encode f _))
  | descPageS2 f =>
    simp only [fitsContext, Bool.and_eq_true, beq_iff_eq] at hf
    obtain ⟨hl, hs⟩ := hf
    exact (decodeDescriptor_pageS2 (low_bits_encodeLeafS2 f _) hl hs).trans
      (congrArg Instr.descPageS2 (decodeLeafS2_encode f _))
  | mairDeviceNGnRnE | mairDeviceNGnRE | mairDeviceNGRE | mairDeviceGRE | mairReservedDevice01
  | mairReservedDevice10 | mairReservedDevice11 | mairReservedNormal | mairNormal => cases hf

/-- Eight bytes of memory are read in the byte order they were stored in (R66 to R68). -/
theorem decode_stored_descriptor (reversed : Bool) (c : DescContext) (v : Word) :
    decode (.descriptor reversed c) (bytesOfWord (if reversed then bigEndianReverse v else v)) =
      .ok (decodeDescriptor c v) := by
  cases reversed with
  | false => simp [decode]
  | true => simp [decode]

/-- Settles O1: the byte order is undone first, then the word decodes to its row. -/
theorem decodeEncodeDescriptors : Obligations.DecodeEncodeDescriptors := by
  intro reversed c i hm hf
  have hbytes : encode reversed i = 
      bytesOfWord (if reversed then bigEndianReverse (encodeWord i) else encodeWord i) := by
    simp [encode, hm]
  rw [hbytes, decode_stored_descriptor, decodeDescriptor_encodeWord hf]

/-! ### The context a decoded descriptor fits (R91) -/

/-- Bits [1:0] of a word that is not invalid. -/
theorem low_bits_cases {v : Word} (h : v.getLsbD 0 = true) : v.extractLsb' 0 2 = 0b01 ∨ v.extractLsb' 0 2 = 0b11 := by
  have h0 : (v.extractLsb' 0 2).getLsbD 0 = true := by simpa using h
  revert h0
  generalize v.extractLsb' 0 2 = low
  revert low
  decide

/-- What a word is in a context: the kinds of R91, each with its condition. -/
theorem decodeDescriptor_cases (c : DescContext) (v : Word) :
    (v.getLsbD 0 = false ∧ decodeDescriptor c v = .descInvalid) ∨
    (v.extractLsb' 0 2 = 0b01 ∧
      ((c.level = 3 ∧ decodeDescriptor c v = .descReservedL3) ∨
       (c.level.val < firstblocklevel c.granule ∧ decodeDescriptor c v = .descBlockNotAllowed) ∨
       (c.level ≠ 3 ∧ firstblocklevel c.granule ≤ c.level.val ∧ c.stage ≠ .s2 ∧
          decodeDescriptor c v = .descBlockS1 (decodeLeafS1 v)) ∨
       (c.level ≠ 3 ∧ firstblocklevel c.granule ≤ c.level.val ∧ c.stage = .s2 ∧
          decodeDescriptor c v = .descBlockS2 (decodeLeafS2 v)))) ∨
    (v.extractLsb' 0 2 = 0b11 ∧
      ((c.level = 3 ∧ c.stage ≠ .s2 ∧ decodeDescriptor c v = .descPageS1 (decodeLeafS1 v)) ∨
       (c.level = 3 ∧ c.stage = .s2 ∧ decodeDescriptor c v = .descPageS2 (decodeLeafS2 v)) ∨
       (c.level ≠ 3 ∧ c.stage = .s1El10 ∧ decodeDescriptor c v = .descTableS1El10 (decodeTableS1El10 v)) ∨
       (c.level ≠ 3 ∧ c.stage = .s1El2El3 ∧ decodeDescriptor c v = .descTableS1El2El3 (decodeTableS1El2El3 v)) ∨
       (c.level ≠ 3 ∧ c.stage = .s2 ∧ decodeDescriptor c v = .descTableS2 (v.extractLsb' 12 36)))) := by
  cases h0 : v.getLsbD 0 with
  | false => exact .inl ⟨rfl, decodeDescriptor_invalid c h0⟩
  | true =>
    refine .inr ((low_bits_cases h0).imp (fun h01 => ⟨h01, ?_⟩) fun h11 => ⟨h11, ?_⟩)
    · by_cases hl : c.level = 3
      · exact .inl ⟨hl, decodeDescriptor_reservedL3 h01 hl⟩
      · obtain hb | hb := Nat.lt_or_ge c.level.val (firstblocklevel c.granule)
        · exact .inr (.inl ⟨hb, decodeDescriptor_blockNotAllowed h01 hl hb⟩)
        · by_cases hs : c.stage = .s2
          · exact .inr (.inr (.inr ⟨hl, hb, hs, decodeDescriptor_blockS2 h01 hl hb hs⟩))
          · exact .inr (.inr (.inl ⟨hl, hb, hs, decodeDescriptor_blockS1 h01 hl hb hs⟩))
    · by_cases hl : c.level = 3
      · by_cases hs : c.stage = .s2
        · exact .inr (.inl ⟨hl, hs, decodeDescriptor_pageS2 h11 hl hs⟩)
        · exact .inl ⟨hl, hs, decodeDescriptor_pageS1 h11 hl hs⟩
      · refine .inr (.inr ?_)
        cases hs : c.stage with
        | s1El10 => exact .inl ⟨hl, rfl, decodeDescriptor_tableS1El10 h11 hl hs⟩
        | s1El2El3 => exact .inr (.inl ⟨hl, rfl, decodeDescriptor_tableS1El2El3 h11 hl hs⟩)
        | s2 => exact .inr (.inr ⟨hl, rfl, decodeDescriptor_tableS2 h11 hl hs⟩)

/-- Settles O3: each kind's condition is the condition of its row. -/
theorem decodedDescriptorFitsContext : Obligations.DecodedDescriptorFitsContext := by
  intro c v
  obtain ⟨-, h⟩ | ⟨-, ⟨hl, h⟩ | ⟨hb, h⟩ | ⟨hl, hb, hs, h⟩ | ⟨hl, hb, hs, h⟩⟩ |
    ⟨-, ⟨hl, hs, h⟩ | ⟨hl, hs, h⟩ | ⟨hl, hs, h⟩ | ⟨hl, hs, h⟩ | ⟨hl, hs, h⟩⟩ := decodeDescriptor_cases c v
  all_goals
    rw [h]
    refine ⟨?_, rfl, rfl⟩
    simp [fitsContext, *]

end Sys2Proof.Machine
end

section
/-! PROOFS. The step: every word fetched decodes to a row that fits the call (R91, R114, R247 to R249), and what the
row then does. -/

namespace Sys2Proof.Machine

/-! ### The MAIR bytes (R109, R247 to R249) -/

/-- Every byte is a well-formed MAIR row, which encodes to it: the 256 bytes one by one. -/
theorem decodeMair_spec : ∀ b : Byte,
    (decodeMair b).wf = true ∧ (decodeMair b).isMair = true ∧ (encodeWord (decodeMair b)).extractLsb' 0 8 = b := by
  decide

/-- Every well-formed MAIR row is the row of its byte: the operands of each row one by one. -/
theorem decodeMair_encodeWord {i : Instr} (hm : i.isMair = true) (hw : i.wf = true) :
    decodeMair ((encodeWord i).extractLsb' 0 8) = i := by
  cases i with
  | descInvalid | descReservedL3 | descBlockNotAllowed | descTableS1El10 | descTableS1El2El3 | descTableS2
  | descBlockS1 | descPageS1 | descBlockS2 | descPageS2 => cases hm
  | mairDeviceNGnRnE | mairDeviceNGnRE | mairDeviceNGRE | mairDeviceGRE => decide
  | mairReservedDevice01 d | mairReservedDevice10 d | mairReservedDevice11 d => revert d; decide
  | mairReservedNormal o => revert o; decide
  | mairNormal o n => revert o n; decide

theorem encode_of_isMair (reversed : Bool) {i : Instr} (h : i.isMair = true) :
    encode reversed i = [(encodeWord i).extractLsb' 0 8] := if_pos h

/-- Settles O2: both directions are facts of the tables, and the byte order concerns no single byte. -/
theorem mairBytesAndTermsCorrespond : Obligations.MairBytesAndTermsCorrespond := by
  refine ⟨fun reversed b => ?_, fun reversed i hm hw => ?_⟩
  · obtain ⟨hw, hm, hb⟩ := decodeMair_spec b
    exact ⟨hw, hm, by rw [encode_of_isMair reversed hm, hb]⟩
  · rw [encode_of_isMair reversed hm]
    exact congrArg Except.ok (decodeMair_encodeWord hm hw)

/-! ### The word fetched (R209, R246) -/

theorem State.fetched_eq_of_walking {s : State} {req : Request} {w : Walk} {target : Target} {d : AddressDescriptor}
    (hp : s.phase = .walking req w target d) :
    s.fetched =
      some (decode (.descriptor w.reversedescriptors (walkContext w target)) (s.fetchBytes d.paddress)) := by
  unfold State.fetched
  rw [hp]

/-- A walk reads a descriptor whose row fits it. -/
theorem State.fetched_of_walking {s : State} {req : Request} {w : Walk} {target : Target} {d : AddressDescriptor}
    (hp : s.phase = .walking req w target d) :
    ∃ v : Word, s.fetched = some (.ok (decodeDescriptor (walkContext w target) v)) := by
  rw [State.fetched_eq_of_walking hp]
  exact ⟨_, rfl⟩

/-- The attributes of a stage 1 block or page are those of a MAIR byte. -/
theorem State.fetched_of_attr {s : State} {req : Request} {ip : PAddr} {r : TLBRecord} {sh : BitVec 2}
    {index : BitVec 3} (hp : s.phase = .attr req ip r sh index) :
    s.fetched = some (.ok (decodeMair (s.mairByte index))) := by
  unfold State.fetched
  rw [hp]
  rfl

theorem step_of_fetched {s : State} {i : Instr} (h : s.fetched = some (.ok i)) : step s = exec i s := by
  unfold step
  rw [h]

theorem step_of_idle {s : State} (hp : s.phase = .idle) : step s = s.takeRequest := by
  unfold step State.fetched
  rw [hp]

theorem step_of_walking {s : State} {req : Request} {w : Walk} {target : Target} {d : AddressDescriptor}
    (hp : s.phase = .walking req w target d) :
    ∃ i, fitsContext (walkContext w target) i = true ∧ i.isMair = false ∧ step s = exec i s := by
  obtain ⟨v, hv⟩ := State.fetched_of_walking hp
  obtain ⟨hf, -, hm⟩ := decodedDescriptorFitsContext (walkContext w target) v
  exact ⟨_, hf, hm, step_of_fetched hv⟩

theorem step_of_attr {s : State} {req : Request} {ip : PAddr} {r : TLBRecord} {sh : BitVec 2}
    {index : BitVec 3} (hp : s.phase = .attr req ip r sh index) :
    step s = exec (decodeMair (s.mairByte index)) s :=
  step_of_fetched (State.fetched_of_attr hp)

/-- Settles O10: the two kinds of word a call reads. -/
theorem everyFetchedWordDecodes : Obligations.EveryFetchedWordDecodes := by
  intro s hp
  cases h : s.phase with
  | idle => exact absurd h hp
  | walking req w target d =>
    obtain ⟨v, hv⟩ := State.fetched_of_walking h
    obtain ⟨-, hw, -⟩ := decodedDescriptorFitsContext (walkContext w target) v
    exact ⟨_, hv, hw⟩
  | attr req ip r sh index => exact ⟨_, State.fetched_of_attr h, (decodeMair_spec _).1⟩

/-- Settles O12: a step with no call in progress takes a request, and there is none. -/
theorem idleUnitWaits : Obligations.IdleUnitWaits := by
  intro s hp hr
  rw [step_of_idle hp]
  unfold State.takeRequest
  rw [hr]

/-- The eight bytes of a descriptor, at rising addresses (R66, R72). -/
theorem State.fetchBytes_eq (s : State) (p : FullAddress) :
    s.fetchBytes p =
      (List.range 8).map fun k => s.readByte p.ns (p.physicaladdress + BitVec.ofNat 48 k).toNat := by
  have hzero : p.physicaladdress + BitVec.ofNat 48 0 = p.physicaladdress := BitVec.add_zero _
  simp only [List.range, List.range.loop, List.map, hzero]
  rfl

/-- Settles O9: the eight bytes are those of `State.fetchBytes`, and the byte is the slice of the MAIR. -/
theorem stepRunsDecodedInstruction : Obligations.StepRunsDecodedInstruction := by
  refine fun s i => ⟨fun req w target d hp h => step_of_fetched ?_, fun req ip r sh index hp h => ?_⟩
  · rw [State.fetched_eq_of_walking hp, State.fetchBytes_eq, h]
  · have hbyte : s.mairByte index = BitVec.ofNat 8 (s.mair.toNat / 2 ^ (8 * index.toNat)) := by
      apply BitVec.eq_of_toNat_eq
      rw [State.mairByte, BitVec.extractLsb'_toNat, BitVec.toNat_ofNat, Nat.shiftRight_eq_div_pow]
    rw [step_of_attr hp, hbyte, h]

/-! ### What a descriptor does in the walk that waits for it (R206 to R229) -/

/-- The outcomes of a descriptor that fits the walk: a fault of the walk, the next level, or the end of a stage 1 or
of a stage 2 walk. -/
inductive DescriptorOutcome (s : State) (req : Request) (w : Walk) (target : Target) : Result → Prop where
  | fault (k : FaultKind) :
    DescriptorOutcome s req w target (.next (s.finishFault target (walkFault k req w target)))
  | table (a : BitVec 36) (ns ro pv xn pxn : Bool) (hl : w.level ≠ 3) :
    DescriptorOutcome s req w target (s.enterLevel req (descend w a ns ro pv xn pxn) target)
  | leafS1 (f : LeafS1) (ht : target = .stage1) :
    DescriptorOutcome s req w target (.next (s.goto (.attr req w.ipaddress (s.stage1Record w f) f.sh f.attrIndx)))
  | leafS2 (f : LeafS2) (ht : target.secondstage = true) (hb : firstblocklevel w.granule ≤ w.level.val) :
    DescriptorOutcome s req w target (s.afterStage2Walk req w target (s.stage2Record req w f))

section
variable {s : State} {req : Request} {w : Walk} {target : Target} {d : AddressDescriptor} {i : Instr}

theorem State.invalidDescriptor_outcome (hp : s.phase = .walking req w target d)
    (hf : fitsContext (walkContext w target) i = true) :
    DescriptorOutcome s req w target (s.invalidDescriptor i) := by
  rw [State.invalidDescriptor, State.onDescriptor_of_fits hp hf]
  exact .fault .translation

theorem State.tableDescriptor_outcome (hp : s.phase = .walking req w target d)
    (hf : fitsContext (walkContext w target) i = true) (hl : w.level ≠ 3) (a : BitVec 36) (ns ro pv xn pxn : Bool) :
    DescriptorOutcome s req w target (s.tableDescriptor i a ns ro pv xn pxn) := by
  rw [State.tableDescriptor, State.onDescriptor_of_fits hp hf]
  split
  · exact .fault .addressSize
  · exact .table a ns ro pv xn pxn hl

theorem State.leafS1_outcome (hp : s.phase = .walking req w target d)
    (hf : fitsContext (walkContext w target) i = true) (ht : target = .stage1) (f : LeafS1) :
    DescriptorOutcome s req w target (s.leafS1 i f) := by
  rw [State.leafS1, State.onDescriptor_of_fits hp hf]
  split
  · exact .fault _
  · exact .leafS1 f ht

theorem State.leafS2_outcome (hp : s.phase = .walking req w target d)
    (hf : fitsContext (walkContext w target) i = true) (ht : target.secondstage = true)
    (hb : firstblocklevel w.granule ≤ w.level.val) (f : LeafS2) :
    DescriptorOutcome s req w target (s.leafS2 i f) := by
  rw [State.leafS2, State.onDescriptor_of_fits hp hf]
  split
  · exact .fault _
  · exact .leafS2 f ht hb

/-- The stage of a walk's rows is the stage of its target. -/
theorem walkContext_stage_iff : (walkContext w target).stage = .s2 ↔ target.secondstage = true := by
  cases target with
  | stage1 => cases h : w.singlepriv <;> simp [walkContext, Target.secondstage, h]
  | access | table => simp [walkContext, Target.secondstage]

theorem target_eq_stage1_of_stage (h : (walkContext w target).stage ≠ .s2) : target = .stage1 := by
  rw [Ne, walkContext_stage_iff] at h
  cases target with
  | stage1 => rfl
  | access | table => exact absurd rfl h

theorem firstblocklevel_le_three (g : Granule) : firstblocklevel g ≤ 3 := by cases g <;> decide

/-- What each descriptor row does in a walk it fits. -/
theorem exec_descriptor_outcome (hp : s.phase = .walking req w target d)
    (hf : fitsContext (walkContext w target) i = true) : DescriptorOutcome s req w target (exec i s) := by
  have hfits := hf
  cases i with
  | descInvalid | descReservedL3 | descBlockNotAllowed => exact State.invalidDescriptor_outcome hp hf
  | descTableS1El10 | descTableS1El2El3 | descTableS2 =>
    simp only [fitsContext, Bool.and_eq_true, bne_iff_ne] at hfits
    exact State.tableDescriptor_outcome hp hf hfits.1 ..
  | descBlockS1 f =>
    simp only [fitsContext, Bool.and_eq_true, bne_iff_ne] at hfits
    exact State.leafS1_outcome hp hf (target_eq_stage1_of_stage hfits.2) f
  | descPageS1 f =>
    simp only [fitsContext, Bool.and_eq_true, bne_iff_ne] at hfits
    exact State.leafS1_outcome hp hf (target_eq_stage1_of_stage hfits.2) f
  | descBlockS2 f =>
    simp only [fitsContext, Bool.and_eq_true, beq_iff_eq, decide_eq_true_eq] at hfits
    obtain ⟨⟨-, hb⟩, hs⟩ := hfits
    exact State.leafS2_outcome hp hf (walkContext_stage_iff.mp hs) hb f
  | descPageS2 f =>
    simp only [fitsContext, Bool.and_eq_true, beq_iff_eq] at hfits
    obtain ⟨hl, hs⟩ := hfits
    have hlevel : w.level = 3 := hl
    have hb : firstblocklevel w.granule ≤ w.level.val := by
      rw [hlevel]
      exact firstblocklevel_le_three w.granule
    exact State.leafS2_outcome hp hf (walkContext_stage_iff.mp hs) hb f
  | mairDeviceNGnRnE | mairDeviceNGnRE | mairDeviceNGRE | mairDeviceGRE | mairReservedDevice01
  | mairReservedDevice10 | mairReservedDevice11 | mairReservedNormal | mairNormal => cases hf

theorem step_walking_outcome (hp : s.phase = .walking req w target d) :
    DescriptorOutcome s req w target (step s) := by
  obtain ⟨i, hf, -, hstep⟩ := step_of_walking hp
  rw [hstep]
  exact exec_descriptor_outcome hp hf

end

/-! ### What a MAIR byte does in the call that waits for it (R245 to R249) -/

/-- The attributes a well-formed MAIR row gives. -/
def State.rowSpec (s : State) : Instr → BitVec 2 → AccType → AttrSpec
  | .mairDeviceNGnRE => fun _ _ => .device .nGnRE
  | .mairDeviceNGRE => fun _ _ => .device .nGRE
  | .mairDeviceGRE => fun _ _ => .device .gre
  | .mairReservedDevice01 _ | .mairReservedDevice10 _ | .mairReservedDevice11 _ | .mairReservedNormal _ =>
    s.reservedSpec (s.unknown .s1Attr)
  | .mairNormal o n => s.normalSpec o n
  | _ => fun _ _ => .device .nGnRnE

/-- A well-formed MAIR row gives its attributes to the call that waits for them. -/
theorem exec_mair {i : Instr} (hm : i.isMair = true) (hw : i.wf = true) (s : State) :
    exec i s = s.onAttribute (s.rowSpec i) := by
  cases i with
  | descInvalid | descReservedL3 | descBlockNotAllowed | descTableS1El10 | descTableS1El2El3 | descTableS2
  | descBlockS1 | descPageS1 | descBlockS2 | descPageS2 => cases hm
  | mairDeviceNGnRnE | mairDeviceNGnRE | mairDeviceNGRE | mairDeviceGRE | mairReservedDevice01
  | mairReservedDevice10 | mairReservedDevice11 => rfl
  | mairReservedNormal o =>
    simp only [Instr.wf, bne_iff_ne] at hw
    exact if_neg hw
  | mairNormal o n =>
    simp only [Instr.wf, Bool.and_eq_true, bne_iff_ne] at hw
    obtain ⟨ho, hn⟩ := hw
    exact if_neg (by simpa using And.intro ho hn)

/-- The record of a stage 1 walk with the attributes assigned (R245). -/
def TLBRecord.withAttrs (r : TLBRecord) (m : MemoryAttributes) : TLBRecord :=
  { r with addrdesc := { r.addrdesc with memattrs := m } }

@[simp] theorem TLBRecord.withAttrs_isFault (r : TLBRecord) (m : MemoryAttributes) :
    (r.withAttrs m).addrdesc.isFault = r.addrdesc.isFault := rfl
@[simp] theorem TLBRecord.withAttrs_memattrs (r : TLBRecord) (m : MemoryAttributes) :
    (r.withAttrs m).addrdesc.memattrs = m := rfl
@[simp] theorem TLBRecord.withAttrs_paddress (r : TLBRecord) (m : MemoryAttributes) :
    (r.withAttrs m).addrdesc.paddress = r.addrdesc.paddress := rfl
@[simp] theorem TLBRecord.withAttrs_perms (r : TLBRecord) (m : MemoryAttributes) :
    (r.withAttrs m).perms = r.perms := rfl
@[simp] theorem TLBRecord.withAttrs_level (r : TLBRecord) (m : MemoryAttributes) :
    (r.withAttrs m).level = r.level := rfl

/-- `AArch64.FirstStageTranslate` and `AArch64.FullTranslate` after a stage 1 walk or the flat map (R136 to R139,
R122): the record joins the state, then come the checks. -/
def State.completeStage1 (s : State) (req : Request) (r : TLBRecord) (ip : PAddr) (check : Bool) : Result :=
  (s.record r).afterStage1 req ((s.record r).stage1Checks req r ip check)

section
variable {s : State} {req : Request} {ip : PAddr} {r : TLBRecord} {sh : BitVec 2} {index : BitVec 3}

theorem State.onAttribute_eq (hp : s.phase = .attr req ip r sh index) (spec : BitVec 2 → AccType → AttrSpec) :
    s.onAttribute spec =
      s.completeStage1 req (r.withAttrs (memAttrDefaults (s.unknown .s1Attr) (spec sh req.acctype))) ip true :=
  State.onAttribute_of_attr hp

theorem exec_mair_completes {i : Instr} (hp : s.phase = .attr req ip r sh index) (hm : i.isMair = true)
    (hw : i.wf = true) :
    exec i s =
      s.completeStage1 req
        (r.withAttrs (memAttrDefaults (s.unknown .s1Attr) (s.rowSpec i sh req.acctype))) ip true := by
  rw [exec_mair hm hw, State.onAttribute_eq hp]

/-- The step that decodes a MAIR byte completes stage 1 with some attributes. -/
theorem step_attr_completes (hp : s.phase = .attr req ip r sh index) :
    ∃ m, step s = s.completeStage1 req (r.withAttrs m) ip true := by
  obtain ⟨hw, hm, -⟩ := decodeMair_spec (s.mairByte index)
  rw [step_of_attr hp, exec_mair_completes hp hm hw]
  exact ⟨_, rfl⟩

end

end Sys2Proof.Machine
end

section
/-! PROOFS. The invariant: what every step keeps (R69, R74, R200, R227), one lemma for each shared operation by its
inversion lemma. -/

namespace Sys2Proof.Machine

/-! ### The parts of the invariant -/

/-- A walk's numbers are legal and its space is one that the security state may use. -/
def State.walkFits (s : State) (w : Walk) : Prop := walkOk w = true ∧ (s.isSecure = true ∨ w.nsTable = true)

theorem State.stage2Ok_iff (s : State) (w : Walk) (s1 : AddressDescriptor) :
    s.stage2Ok w s1 = true ↔
      s.twoStages = true ∧ s.s2WalkAssert = true ∧ s.s2Enabled = true ∧ w.nsTable = true ∧ s1.isFault = false := by
  simp [State.stage2Ok, and_assoc]

theorem State.phaseOk_walking_iff (s : State) (req : Request) (w : Walk) (target : Target) (d : AddressDescriptor) :
    s.phaseOk (.walking req w target d) = true ↔
      walkOk w = true ∧ s.targetOk w target = true ∧ aligned8 d.paddress.physicaladdress = true ∧ d.isFault = false ∧
        (s.isSecure = true ∨ (w.nsTable = true ∧ d.paddress.ns = true)) := by
  simp [State.phaseOk, and_assoc]

theorem State.phaseOk_attr_iff (s : State) (req : Request) (ip : PAddr) (r : TLBRecord) (sh : BitVec 2)
    (index : BitVec 3) :
    s.phaseOk (.attr req ip r sh index) = true ↔
      r.addrdesc.isFault = false ∧ (s.isSecure = true ∨ r.addrdesc.paddress.ns = true) := by
  simp [State.phaseOk]

theorem State.inv_iff (s : State) :
    s.inv = true ↔ Memory.wf s.memS = true ∧ Memory.wf s.memNS = true ∧ s.phaseOk s.phase = true := by
  simp [State.inv, and_assoc]

/-- Whether a call is well formed depends on what the unit only reads. -/
theorem State.phaseOk_of_sameWorld {s t : State} (h : SameWorld s t) (p : Phase) : t.phaseOk p = s.phaseOk p := by
  have hsecure : t.isSecure = s.isSecure := by simp only [State.isSecure, h.el, h.cfg, h.regs]
  have htwo : t.twoStages = s.twoStages := by
    simp only [State.twoStages, State.inEl10, hsecure, h.el, h.cfg]
  have hassert : t.s2WalkAssert = s.s2WalkAssert := by
    simp only [State.s2WalkAssert, hsecure, h.el, h.cfg, h.el2]
  have henabled : t.s2Enabled = s.s2Enabled := by simp only [State.s2Enabled, h.regs]
  have hstage2 : t.stage2Ok = s.stage2Ok := by
    funext w s1
    simp only [State.stage2Ok, htwo, hassert, henabled]
  cases p with
  | idle => rfl
  | attr => simp only [State.phaseOk, hsecure]
  | walking req w target d =>
    have htarget : t.targetOk w target = s.targetOk w target := by
      cases target with
      | stage1 => rfl
      | access | table => simp only [State.targetOk, hstage2]
    simp only [State.phaseOk, hsecure, htarget]

/-! ### The shared operations -/

/-- A walk reads its descriptors at 8-byte aligned addresses (R69). -/
theorem aligned8_descriptorAddress {w : Walk} (h : walkOk w = true) :
    aligned8 (descriptorAddress w).physicaladdress = true := by
  simp only [walkOk, Bool.and_eq_true] at h
  rw [descriptorAddress_eq]
  exact aligned8_entryAddress w h.2

/-- A walk at the address of its own descriptor. -/
theorem State.atDescriptor_descaddr_phaseOk {s : State} {w : Walk} {target : Target} (hw : s.walkFits w)
    (ht : s.targetOk w target = true) (req : Request) (u : Unknown) :
    s.phaseOk (s.atDescriptor req w target (descaddr u w)).phase = true := by
  obtain ⟨hok, hns⟩ := hw
  rw [State.atDescriptor_phase, State.phaseOk_walking_iff]
  exact ⟨hok, ht, aligned8_descriptorAddress hok, rfl, hns.imp_right fun h => ⟨h, h⟩⟩

/-- A suspended stage 1 walk that reads its descriptor at an address in the Non-secure space. -/
theorem State.atDescriptor_stage1_phaseOk {s : State} {w : Walk} {d : AddressDescriptor} (hw : walkOk w = true)
    (hns : w.nsTable = true) (hd : d.isFault = false) (ha : aligned8 d.paddress.physicaladdress = true)
    (hdns : d.paddress.ns = true) (req : Request) :
    s.phaseOk (s.atDescriptor req w .stage1 d).phase = true := by
  rw [State.atDescriptor_phase, State.phaseOk_walking_iff]
  exact ⟨hw, rfl, ha, hd, .inr ⟨hns, hdns⟩⟩

/-- What stage 2 needs of a descriptor address of the stage 1 walk `outer`: all of it aligned, and in the Non-secure
space. -/
def tableRequestOk (s1 : AddressDescriptor) (outer : Walk) : Prop :=
  walkOk outer = true ∧ outer.nsTable = true ∧ s1.paddress.ns = true ∧
    aligned8 s1.paddress.physicaladdress = true

theorem setWidth_48_64 (a : PAddr) : (a.setWidth 64 : Word).setWidth 48 = a := by
  rw [BitVec.setWidth_setWidth_of_le a (by decide), BitVec.setWidth_eq]

/-- The walk that stage 2 of an address opens fits its target. -/
theorem State.targetOk_of_openStage2 {s : State} {s1 : AddressDescriptor} {outer : Option Walk} {w2 : Walk}
    (htwo : s.twoStages = true) (hassert : s.s2WalkAssert = true) (hon : s.s2Enabled = true)
    (hs1 : s1.isFault = false) (hout : ∀ w ∈ outer, tableRequestOk s1 w)
    (hw : s.openStage2 s1.paddress.physicaladdress = .ok w2) : s.targetOk w2 (stage2Target s1 outer) = true := by
  obtain ⟨-, hns, hin⟩ := State.openStage2_ok hw
  have hstage2 : s.stage2Ok w2 s1 = true := (s.stage2Ok_iff w2 s1).mpr ⟨htwo, hassert, hon, hns, hs1⟩
  cases outer with
  | none => exact hstage2
  | some w =>
    obtain ⟨hok, hwns, -, ha⟩ := hout w rfl
    simp only [stage2Target, Option.elim, State.targetOk, hstage2, hok, hwns, hin, setWidth_48_64, ha, Bool.and_self]

theorem State.secondStage_phaseOk {s t : State} {req : Request} {s1 : AddressDescriptor} {outer : Option Walk}
    (h : s.secondStage req s1 outer = .next t) (hs1 : s1.isFault = false) (hout : ∀ w ∈ outer, tableRequestOk s1 w) :
    s.phaseOk t.phase = true := by
  obtain ⟨htwo, ⟨-, -, rfl⟩ | ⟨w, -, rfl, rfl⟩ | ⟨target, k, -, -, -, -, rfl⟩ |
    ⟨target, w2, hon, hassert, rfl, hw, rfl⟩⟩ := State.secondStage_next h
  · rfl
  · obtain ⟨hok, hwns, hs1ns, ha⟩ := hout w rfl
    exact State.atDescriptor_stage1_phaseOk hok hwns hs1 ha hs1ns req
  · rw [State.finishFault_phase]
    rfl
  · obtain ⟨hok, hns, -⟩ := State.openStage2_ok hw
    exact State.atDescriptor_descaddr_phaseOk ⟨hok, .inr hns⟩
      (State.targetOk_of_openStage2 htwo hassert hon hs1 hout hw) req _

theorem State.enterStage1_phaseOk {s t : State} {req : Request} {w : Walk} (h : s.enterStage1 req w = .next t)
    (hw : s.walkFits w) : s.phaseOk t.phase = true := by
  obtain ⟨-, rfl⟩ | ⟨-, hsecure, -, h⟩ := State.enterStage1_next h
  · exact State.atDescriptor_descaddr_phaseOk hw rfl req _
  · obtain ⟨hok, hns⟩ := hw
    have hns : w.nsTable = true := hns.resolve_left (by simp [hsecure])
    refine State.secondStage_phaseOk h rfl fun w' hw' => ?_
    cases hw'
    exact ⟨hok, hns, hns, aligned8_descriptorAddress hok⟩

/-- A table descriptor leaves the walk at home in its target. -/
theorem State.targetOk_descend {s : State} {w : Walk} {target : Target} (h : s.targetOk w target = true)
    (a : BitVec 36) (ns ro pv xn pxn : Bool) : s.targetOk (descend w a ns ro pv xn pxn) target = true := by
  have hstage2 {s1 : AddressDescriptor} (h2 : s.stage2Ok w s1 = true) :
      s.stage2Ok (descend w a ns ro pv xn pxn) s1 = true := by
    rw [State.stage2Ok_iff] at h2 ⊢
    obtain ⟨htwo, hassert, hon, hns, hs1⟩ := h2
    exact ⟨htwo, hassert, hon, by rw [descend_nsTable, hns, Bool.true_or], hs1⟩
  cases target with
  | stage1 => rfl
  | access s1 => exact hstage2 h
  | table outer s1 =>
    simp only [State.targetOk, Bool.and_eq_true, descend_inputaddr] at h ⊢
    obtain ⟨⟨⟨h2, hok⟩, hns⟩, ha⟩ := h
    exact ⟨⟨⟨hstage2 h2, hok⟩, hns⟩, ha⟩

theorem State.enterLevel_phaseOk {s t : State} {req : Request} {w : Walk} {target : Target}
    (h : s.enterLevel req w target = .next t) (hw : s.walkFits w) (ht : s.targetOk w target = true) :
    s.phaseOk t.phase = true := by
  obtain ⟨-, h⟩ | ⟨-, rfl⟩ := State.enterLevel_next h
  · exact State.enterStage1_phaseOk h hw
  · exact State.atDescriptor_descaddr_phaseOk hw ht req _

theorem State.afterStage1_phaseOk {s t : State} {req : Request} {ad : AddressDescriptor}
    (h : s.afterStage1 req ad = .next t) : s.phaseOk t.phase = true := by
  obtain ⟨-, rfl⟩ | ⟨had, -, h⟩ := State.afterStage1_next h
  · rfl
  · exact State.secondStage_phaseOk h had fun _ hw => absurd hw (Option.not_mem_none _)

theorem State.completeStage1_phaseOk {s t : State} {req : Request} {r : TLBRecord} {ip : PAddr} {check : Bool}
    (h : s.completeStage1 req r ip check = .next t) : s.phaseOk t.phase = true :=
  State.afterStage1_phaseOk (s := s.record r) h

theorem State.stage2Record_paddress (s : State) (req : Request) (w : Walk) (f : LeafS2) :
    (s.stage2Record req w f).addrdesc.paddress =
      { physicaladdress := outputAddress f.addr w.inputaddr (addrselectbottom w.granule w.level), ns := true } := rfl

/-- The output address of a stage 2 block or page for a descriptor address (R221, R227). -/
theorem State.stage2Record_aligned8 (s : State) (req : Request) {w : Walk} (f : LeafS2)
    (hb : firstblocklevel w.granule ≤ w.level.val) (ha : aligned8 (w.inputaddr.setWidth 48) = true) :
    aligned8 (s.stage2Record req w f).addrdesc.paddress.physicaladdress = true := by
  have hge := addrselectbottom_ge w.granule w.level
  have hle := addrselectbottom_le w.granule w.level hb
  rw [State.stage2Record_paddress]
  exact aligned8_outputAddress f.addr w.inputaddr (by omega) (by omega) ha

theorem State.afterStage2Walk_phaseOk {s t : State} {req : Request} {w : Walk} {target : Target} {f : LeafS2}
    (h : s.afterStage2Walk req w target (s.stage2Record req w f) = .next t) (ht : s.targetOk w target = true)
    (hb : firstblocklevel w.granule ≤ w.level.val) : s.phaseOk t.phase = true := by
  obtain ⟨-, ⟨s1, -, rfl⟩ | ⟨outer, s1, d, rfl, hd, ⟨-, rfl⟩ | ⟨hfault, rfl⟩⟩⟩ := State.afterStage2Walk_next h
  · rfl
  · rw [State.finishFault_phase]
    rfl
  · simp only [State.targetOk, Bool.and_eq_true] at ht
    obtain ⟨⟨⟨h2, hok⟩, hns⟩, ha⟩ := ht
    obtain ⟨-, -, -, -, hs1⟩ := (s.stage2Ok_iff w s1).mp h2
    have hpa : d.paddress = (s.stage2Record req w f).addrdesc.paddress := by
      rw [hd, combineS1S2Desc_paddress hs1, State.stage2Checks_paddress]
    refine State.atDescriptor_stage1_phaseOk (s := s.record (s.stage2Record req w f)) hok hns hfault ?_ ?_ req
    · rw [hpa]
      exact s.stage2Record_aligned8 req f hb ha
    · rw [hpa]
      rfl

/-! ### The steps -/

theorem step_walking_phaseOk {s t : State} {req : Request} {w : Walk} {target : Target} {d : AddressDescriptor}
    (hp : s.phase = .walking req w target d) (hok : s.phaseOk (.walking req w target d) = true)
    (h : step s = .next t) : s.phaseOk t.phase = true := by
  obtain ⟨hwalk, htarget, -, -, hspace⟩ := (s.phaseOk_walking_iff req w target d).mp hok
  have hns : s.isSecure = true ∨ w.nsTable = true := hspace.imp_right And.left
  have houtcome := step_walking_outcome hp
  generalize step s = res at h houtcome
  cases houtcome with
  | fault k =>
    cases h
    rw [State.finishFault_phase]
    rfl
  | table a ns ro pv xn pxn hl =>
    refine State.enterLevel_phaseOk h ⟨walkOk_descend hwalk hl .., ?_⟩ (State.targetOk_descend htarget ..)
    exact hns.imp_right fun hw => by rw [descend_nsTable, hw, Bool.true_or]
  | leafS1 f ht =>
    cases h
    rw [State.goto_phase, State.phaseOk_attr_iff]
    refine ⟨rfl, hns.imp_right fun hw => ?_⟩
    simp only [State.stage1Record, hw, Bool.or_true]
  | leafS2 f ht hb => exact State.afterStage2Walk_phaseOk h htarget hb

/-- Only a Secure regime looks tables up in the Secure space (R204). -/
theorem State.lookupsecure_imp_isSecure {s : State} {va : Word} (h : (s.paramsStage1 va).lookupsecure = true) :
    s.isSecure = true := by
  unfold State.paramsStage1 at h
  cases hel : s.el with
  | el3 => simp [State.isSecure, hel]
  | el2 => simp [hel, State.paramsEl2] at h
  | el1 | el0 =>
    rw [hel] at h
    simp only at h
    split at h
    · exact h
    · exact h

theorem State.openStage1_walkFits {s : State} {va : Word} {ip : PAddr} {w : Walk} (h : s.openStage1 va ip = .ok w) :
    s.walkFits w := by
  obtain ⟨hok, hns⟩ := State.openStage1_ok h
  refine ⟨hok, ?_⟩
  cases hsecure : (s.paramsStage1 va).lookupsecure with
  | true => exact .inl (State.lookupsecure_imp_isSecure hsecure)
  | false => exact .inr (by rw [hns, hsecure, Bool.not_false])

theorem State.stage1On_phaseOk {s t : State} {req : Request} (h : s.stage1On req = .next t) :
    s.phaseOk t.phase = true := by
  obtain ⟨k, -, rfl⟩ | ⟨w, hw, h⟩ := State.stage1On_next h
  · rw [State.finishFault_phase]
    rfl
  · exact State.enterStage1_phaseOk h (State.openStage1_walkFits hw)

theorem State.stage1Off_phaseOk {s t : State} {req : Request} (h : s.stage1Off req = .next t) :
    s.phaseOk t.phase = true := by
  obtain ⟨-, rfl⟩ | ⟨-, h⟩ := State.stage1Off_next h
  · rw [State.finishFault_phase]
    rfl
  · exact State.completeStage1_phaseOk h

theorem State.takeRequest_phaseOk {s t : State} (hp : s.phase = .idle) (h : s.takeRequest = .next t) :
    s.phaseOk t.phase = true := by
  obtain ⟨-, rfl⟩ | ⟨req, rest, -, h | h⟩ := State.takeRequest_next h
  · rw [hp]
    rfl
  · exact State.stage1On_phaseOk (s := { s with requests := rest }) h
  · exact State.stage1Off_phaseOk (s := { s with requests := rest }) h

/-- Settles O14: the memories are those of the world, which every step keeps; the call in progress is well formed
after each kind of step. -/
theorem everyStepKeepsTheInvariant : Obligations.EveryStepKeepsTheInvariant := by
  intro s t hinv h
  obtain ⟨hmemS, hmemNS, hphase⟩ := s.inv_iff.mp hinv
  have hworld := stepWritesNoRegisterAndNoMemory s t h
  rw [State.inv_iff, hworld.memS, hworld.memNS, State.phaseOk_of_sameWorld hworld]
  refine ⟨hmemS, hmemNS, ?_⟩
  cases hp : s.phase with
  | idle =>
    rw [step_of_idle hp] at h
    exact State.takeRequest_phaseOk hp h
  | walking req w target d => exact step_walking_phaseOk hp (hp ▸ hphase) h
  | attr req ip r sh index =>
    obtain ⟨m, hstep⟩ := step_attr_completes hp
    exact State.completeStage1_phaseOk (hstep.symm.trans h)

/-- Settles O15: no call is in progress and nothing is listed. -/
theorem resetMeetsTheInvariant : Obligations.ResetMeetsTheInvariant := rfl

/-- Settles O16: the fields of the reset state; a memory that lists nothing reads as zero. -/
theorem resetStateHasNoCallAndEmptyMemory : Obligations.ResetStateHasNoCallAndEmptyMemory := by
  refine ⟨rfl, rfl, rfl, rfl, rfl, fun ns a => ?_⟩
  cases ns with
  | true | false => exact Memory.read_nil a

end Sys2Proof.Machine
end

section
/-! PROOFS. The progress of a call: no step is refused where no regime uses AArch32, each word lowers the bound on the
words left, and so every call returns one result (R123, R216, R315). -/

namespace Sys2Proof.Machine

/-! ### No step is refused (D7, D9) -/

theorem Answers.next (t : State) : Answers (.next t) := ⟨t, rfl⟩

theorem State.secondStage_answers {s : State} (htwo : s.twoStages = true) (ha : s.el2Aarch32 = false) (req : Request)
    (s1 : AddressDescriptor) (outer : Option Walk) : Answers (s.secondStage req s1 outer) := by
  cases hon : s.s2Enabled with
  | false => cases outer <;> simp [State.secondStage, htwo, hon, Answers]
  | true =>
    cases hw : s.openStage2 s1.paddress.physicaladdress with
    | error k => exact ⟨_, State.secondStage_of_error htwo hon ha hw⟩
    | ok w2 => exact ⟨_, State.secondStage_of_ok htwo hon ha hw⟩

theorem State.enterStage1_answers {s : State} (ha : s.el2Aarch32 = false) (req : Request) (w : Walk) :
    Answers (s.enterStage1 req w) := by
  cases htwo : s.twoStages with
  | false => exact ⟨_, State.enterStage1_of_oneStage htwo⟩
  | true =>
    rw [State.enterStage1_of_twoStages htwo]
    exact State.secondStage_answers htwo ha ..

theorem State.enterLevel_answers {s : State} (ha : s.el2Aarch32 = false) (req : Request) (w : Walk) (target : Target) :
    Answers (s.enterLevel req w target) := by
  cases target with
  | stage1 => exact State.enterStage1_answers ha req w
  | access | table => exact .next _

theorem State.afterStage1_answers {s : State} (ha : s.el2Aarch32 = false) (req : Request) (ad : AddressDescriptor) :
    Answers (s.afterStage1 req ad) := by
  unfold State.afterStage1
  split
  · rename_i hc
    exact State.secondStage_answers (Bool.and_eq_true_iff.mp hc).1 ha ..
  · exact .next _

theorem State.completeStage1_answers {s : State} (ha : s.el2Aarch32 = false) (req : Request) (r : TLBRecord)
    (ip : PAddr) (check : Bool) : Answers (s.completeStage1 req r ip check) :=
  State.afterStage1_answers (s := s.record r) ha req _

theorem State.afterStage2Walk_answers {s : State} {target : Target} (hassert : s.s2WalkAssert = true)
    (ht : target.secondstage = true) (req : Request) (w : Walk) (r : TLBRecord) :
    Answers (s.afterStage2Walk req w target r) := by
  unfold State.afterStage2Walk
  rw [hassert]
  cases target with
  | stage1 => cases ht
  | access s1 => exact .next _
  | table outer s1 =>
    simp only [Bool.not_true, Bool.false_eq_true, if_false]
    split
    · exact .next _
    · exact .next _

theorem State.fullTranslate_answers {s : State} (hregime : s.elUsingAArch32 s.s1Regime = false)
    (ha : s.el2Aarch32 = false) (req : Request) : Answers (s.fullTranslate req) := by
  simp only [State.fullTranslate, hregime, Bool.false_eq_true, if_false]
  split
  · unfold State.stage1On
    simp only
    split
    · exact .next _
    · exact State.enterStage1_answers ha req _
  · unfold State.stage1Off
    split
    · exact .next _
    · exact State.completeStage1_answers ha req _ _ false

/-- The stage 1 regime belongs to EL1, EL2 or EL3. -/
theorem State.s1Regime_aarch64 {s : State} (h : s.allAArch64 = true) :
    s.elUsingAArch32 s.s1Regime = false ∧ s.el2Aarch32 = false := by
  simp only [State.allAArch64, Bool.and_eq_true, Bool.not_eq_true'] at h
  obtain ⟨⟨h1, h2⟩, h3⟩ := h
  refine ⟨?_, h2⟩
  cases hel : s.el with
  | el0 | el1 => simpa [State.s1Regime, State.elUsingAArch32, hel] using h1
  | el2 => simpa [State.s1Regime, State.elUsingAArch32, hel] using h2
  | el3 => simpa [State.s1Regime, State.elUsingAArch32, hel] using h3

/-- A stage 2 walk of the invariant meets its assertion. -/
theorem State.s2WalkAssert_of_targetOk {s : State} {w : Walk} {target : Target} (h : s.targetOk w target = true)
    (ht : target.secondstage = true) : s.s2WalkAssert = true := by
  cases target with
  | stage1 => cases ht
  | access s1 => exact ((s.stage2Ok_iff w s1).mp h).2.1
  | table outer s1 =>
    simp only [State.targetOk, Bool.and_eq_true] at h
    exact ((s.stage2Ok_iff w s1).mp h.1.1.1).2.1

/-- Settles O17: a refusal is AArch32's, or a stage 2 walk's outside its regime, which the invariant excludes. -/
theorem noStepIsRefusedInAArch64 : Obligations.NoStepIsRefusedInAArch64 := by
  intro s hinv hall
  obtain ⟨-, -, hphase⟩ := s.inv_iff.mp hinv
  obtain ⟨hregime, ha⟩ := State.s1Regime_aarch64 hall
  cases hp : s.phase with
  | idle =>
    rw [step_of_idle hp]
    unfold State.takeRequest
    split
    · exact .next _
    · rename_i req rest _
      exact State.fullTranslate_answers (s := { s with requests := rest }) hregime ha _
  | attr req ip r sh index =>
    obtain ⟨m, hstep⟩ := step_attr_completes hp
    rw [hstep]
    exact State.completeStage1_answers ha ..
  | walking req w target d =>
    rw [hp, State.phaseOk_walking_iff] at hphase
    obtain ⟨-, htarget, -⟩ := hphase
    have houtcome := step_walking_outcome hp
    generalize step s = res at houtcome
    cases houtcome with
    | fault k => exact .next _
    | table a ns ro pv xn pxn hl => exact State.enterLevel_answers ha ..
    | leafS1 f ht => exact .next _
    | leafS2 f ht hb => exact State.afterStage2Walk_answers (State.s2WalkAssert_of_targetOk htarget ht) ht ..

/-! ### The words left (R216, R315) -/

section
variable (req : Request) (w : Walk) (d : AddressDescriptor)
theorem wordsLeft_stage1 : wordsLeft (.walking req w .stage1 d) = 6 + 5 * (3 - w.level.val) := rfl
theorem wordsLeft_access (s1 : AddressDescriptor) : wordsLeft (.walking req w (.access s1) d) = 4 - w.level.val := rfl
theorem wordsLeft_table (outer : Walk) (s1 : AddressDescriptor) :
    wordsLeft (.walking req w (.table outer s1) d) = (4 - w.level.val) + (6 + 5 * (3 - outer.level.val)) := rfl
end

/-- The words left after stage 2 of an address: none or its own walk's, and those of the suspended walk. -/
theorem State.secondStage_wordsLeft {s t : State} {req : Request} {s1 : AddressDescriptor} {outer : Option Walk}
    (h : s.secondStage req s1 outer = .next t) :
    wordsLeft t.phase ≤ 4 + outer.elim 0 fun w => 6 + 5 * (3 - w.level.val) := by
  obtain ⟨-, ⟨-, rfl, rfl⟩ | ⟨w, -, rfl, rfl⟩ | ⟨target, k, -, -, -, -, rfl⟩ | ⟨target, w2, -, -, rfl, -, rfl⟩⟩ :=
    State.secondStage_next h
  · simp [wordsLeft]
  · simp [wordsLeft]
  · simp [wordsLeft]
  · cases outer with
    | none => simp [wordsLeft]
    | some w =>
      simp only [State.atDescriptor_phase, Option.elim, wordsLeft_table]
      omega

theorem State.enterStage1_wordsLeft {s t : State} {req : Request} {w : Walk} (h : s.enterStage1 req w = .next t) :
    wordsLeft t.phase ≤ 10 + 5 * (3 - w.level.val) := by
  obtain ⟨-, rfl⟩ | ⟨-, -, -, h⟩ := State.enterStage1_next h
  · rw [State.atDescriptor_phase, wordsLeft_stage1]
    omega
  · have hwords := State.secondStage_wordsLeft h
    simp only [Option.elim] at hwords
    omega

theorem State.completeStage1_wordsLeft {s t : State} {req : Request} {r : TLBRecord} {ip : PAddr} {check : Bool}
    (h : s.completeStage1 req r ip check = .next t) : wordsLeft t.phase ≤ 4 := by
  obtain ⟨-, rfl⟩ | ⟨-, -, h⟩ := State.afterStage1_next h
  · simp [wordsLeft]
  · exact State.secondStage_wordsLeft h

/-- A table descriptor brings every walk one level on. -/
theorem State.enterLevel_wordsLeft {s t : State} {req : Request} {w : Walk} {target : Target} {d : AddressDescriptor}
    (hl : w.level ≠ 3) {a : BitVec 36} {ns ro pv xn pxn : Bool}
    (h : s.enterLevel req (descend w a ns ro pv xn pxn) target = .next t) :
    wordsLeft t.phase < wordsLeft (.walking req w target d) := by
  have hnext := nextLevel_val w.level hl
  have hlt := (nextLevel w.level).isLt
  cases target with
  | stage1 =>
    have hwords := State.enterStage1_wordsLeft (w := descend w a ns ro pv xn pxn) h
    rw [descend_level] at hwords
    rw [wordsLeft_stage1]
    omega
  | access s1 =>
    cases h
    rw [State.atDescriptor_phase, wordsLeft_access, wordsLeft_access, descend_level]
    omega
  | table outer s1 =>
    cases h
    rw [State.atDescriptor_phase, wordsLeft_table, wordsLeft_table, descend_level]
    omega

theorem wordsLeft_pos (req : Request) (w : Walk) (target : Target) (d : AddressDescriptor) :
    0 < wordsLeft (.walking req w target d) := by
  have hlt := w.level.isLt
  cases target <;> simp only [wordsLeft] <;> omega

theorem State.afterStage2Walk_wordsLeft {s t : State} {req : Request} {w : Walk} {target : Target}
    {d : AddressDescriptor} {r : TLBRecord} (h : s.afterStage2Walk req w target r = .next t) :
    wordsLeft t.phase < wordsLeft (.walking req w target d) := by
  have hpos := wordsLeft_pos req w target d
  obtain ⟨-, ⟨s1, -, rfl⟩ | ⟨outer, s1, d', rfl, -, ⟨-, rfl⟩ | ⟨-, rfl⟩⟩⟩ := State.afterStage2Walk_next h
  · exact hpos
  · rw [State.finishFault_phase]
    exact hpos
  · have hlt := w.level.isLt
    rw [State.atDescriptor_phase, wordsLeft_stage1, wordsLeft_table]
    omega

theorem step_walking_wordsLeft {s t : State} {req : Request} {w : Walk} {target : Target} {d : AddressDescriptor}
    (hp : s.phase = .walking req w target d) (h : step s = .next t) :
    wordsLeft t.phase < wordsLeft (.walking req w target d) := by
  have houtcome := step_walking_outcome hp
  generalize step s = res at h houtcome
  cases houtcome with
  | fault k =>
    cases h
    rw [State.finishFault_phase]
    exact wordsLeft_pos req w target d
  | table a ns ro pv xn pxn hl => exact State.enterLevel_wordsLeft hl h
  | leafS1 f ht =>
    cases h
    subst ht
    exact (show 5 < 6 from by decide).trans_le (Nat.le_add_right 6 _)
  | leafS2 f ht hb => exact State.afterStage2Walk_wordsLeft h

theorem State.takeRequest_wordsLeft {s t : State} (hp : s.phase = .idle) (h : s.takeRequest = .next t) :
    wordsLeft t.phase ≤ 25 := by
  obtain ⟨-, rfl⟩ | ⟨req, rest, -, h | h⟩ := State.takeRequest_next h
  · simp [hp, wordsLeft]
  · obtain ⟨k, -, rfl⟩ | ⟨w, -, h⟩ := State.stage1On_next h
    · simp [wordsLeft]
    · have hwords := State.enterStage1_wordsLeft h
      omega
  · obtain ⟨-, rfl⟩ | ⟨-, h⟩ := State.stage1Off_next h
    · simp [wordsLeft]
    · have hwords := State.completeStage1_wordsLeft h
      omega

/-- Settles O19: a step of a call lowers the bound, and a call starts with at most the words of level 0. -/
theorem eachStepLowersTheWordsLeft : Obligations.EachStepLowersTheWordsLeft := by
  refine fun s t h => ⟨fun hp => ?_, fun hp => State.takeRequest_wordsLeft hp (by rwa [step_of_idle hp] at h)⟩
  cases hphase : s.phase with
  | idle => exact absurd hphase hp
  | walking req w target d => exact step_walking_wordsLeft hphase h
  | attr req ip r sh index =>
    obtain ⟨m, hstep⟩ := step_attr_completes hphase
    exact Nat.lt_succ_of_le (State.completeStage1_wordsLeft (hstep.symm.trans h))

/-! ### One result for each call (R123) -/

/-- A step of a call takes no request, and returns one result exactly when it ends the call. -/
def Advances (s t : State) : Prop :=
  t.requests = s.requests ∧
    ((t.phase = .idle ∧ ∃ ad, t.results = s.results ++ [ad]) ∨ (t.phase ≠ .idle ∧ t.results = s.results))

theorem State.finish_advances (s : State) (ad : AddressDescriptor) : Advances s (s.finish ad) :=
  ⟨rfl, .inl ⟨rfl, ad, rfl⟩⟩

theorem State.finishFault_advances (s : State) (target : Target) (f : FaultRecord) :
    Advances s (s.finishFault target f) := by
  obtain ⟨ad, hresults, -⟩ := s.finishFault_results target f
  exact ⟨s.finishFault_requests target f, .inl ⟨s.finishFault_phase target f, ad, hresults⟩⟩

theorem State.atDescriptor_advances (s : State) (req : Request) (w : Walk) (target : Target) (d : AddressDescriptor) :
    Advances s (s.atDescriptor req w target d) :=
  ⟨rfl, .inr ⟨nofun, rfl⟩⟩

theorem State.secondStage_advances {s t : State} {req : Request} {s1 : AddressDescriptor} {outer : Option Walk}
    (h : s.secondStage req s1 outer = .next t) : Advances s t := by
  obtain ⟨-, ⟨-, -, rfl⟩ | ⟨w, -, -, rfl⟩ | ⟨target, k, -, -, -, -, rfl⟩ | ⟨target, w2, -, -, -, -, rfl⟩⟩ :=
    State.secondStage_next h
  · exact s.finish_advances s1
  · exact s.atDescriptor_advances ..
  · exact s.finishFault_advances ..
  · exact s.atDescriptor_advances ..

theorem State.enterLevel_advances {s t : State} {req : Request} {w : Walk} {target : Target}
    (h : s.enterLevel req w target = .next t) : Advances s t := by
  obtain ⟨-, h⟩ | ⟨-, rfl⟩ := State.enterLevel_next h
  · obtain ⟨-, rfl⟩ | ⟨-, -, -, h⟩ := State.enterStage1_next h
    · exact s.atDescriptor_advances ..
    · exact State.secondStage_advances h
  · exact s.atDescriptor_advances ..

theorem State.completeStage1_advances {s t : State} {req : Request} {r : TLBRecord} {ip : PAddr} {check : Bool}
    (h : s.completeStage1 req r ip check = .next t) : Advances s t := by
  obtain ⟨-, rfl⟩ | ⟨-, -, h⟩ := State.afterStage1_next h
  · exact (s.record r).finish_advances _
  · exact State.secondStage_advances (s := s.record r) h

theorem State.afterStage2Walk_advances {s t : State} {req : Request} {w : Walk} {target : Target} {r : TLBRecord}
    (h : s.afterStage2Walk req w target r = .next t) : Advances s t := by
  obtain ⟨-, ⟨s1, -, rfl⟩ | ⟨outer, s1, d, -, -, ⟨-, rfl⟩ | ⟨-, rfl⟩⟩⟩ := State.afterStage2Walk_next h
  · exact (s.record r).finish_advances _
  · exact (s.record r).finishFault_advances ..
  · exact (s.record r).atDescriptor_advances ..

theorem step_advances {s t : State} (hp : s.phase ≠ .idle) (h : step s = .next t) : Advances s t := by
  cases hphase : s.phase with
  | idle => exact absurd hphase hp
  | attr req ip r sh index =>
    obtain ⟨m, hstep⟩ := step_attr_completes hphase
    exact State.completeStage1_advances (hstep.symm.trans h)
  | walking req w target d =>
    have houtcome := step_walking_outcome hphase
    generalize step s = res at h houtcome
    cases houtcome with
    | fault k =>
      cases h
      exact s.finishFault_advances ..
    | table a ns ro pv xn pxn hl => exact State.enterLevel_advances h
    | leafS1 f ht =>
      cases h
      exact ⟨rfl, .inr ⟨nofun, rfl⟩⟩
    | leafS2 f ht hb => exact State.afterStage2Walk_advances h

theorem State.allAArch64_of_sameWorld {s t : State} (h : SameWorld s t) : t.allAArch64 = s.allAArch64 := by
  simp only [State.allAArch64, h.el1, h.el2, h.el3]

theorem run_succ_of_step {s t : State} (h : step s = .next t) (k : Nat) :
    Host.Core.run Sys2Proof.core (k + 1) s = Host.Core.run Sys2Proof.core k t := by
  have hcore : Sys2Proof.core.step s = .next t := h
  simp only [Host.Core.run, hcore]

/-- Settles O20, by induction on the bound: each step answers and lowers it, until the step that ends the call. -/
theorem everyCallReturnsOneResult : Obligations.EveryCallReturnsOneResult := by
  intro s
  induction hn : wordsLeft s.phase using Nat.strong_induction_on generalizing s with
  | h n ih =>
    intro hinv hall hp
    obtain ⟨t, ht⟩ := noStepIsRefusedInAArch64 s hinv hall
    have hlower := (eachStepLowersTheWordsLeft s t ht).1 hp
    obtain ⟨hrequests, ⟨hidle, ad, hresults⟩ | ⟨hbusy, hresults⟩⟩ := step_advances hp ht
    · exact ⟨1, t, ad, by omega, run_succ_of_step ht 0, hidle, hresults, hrequests⟩
    · have hinv' := everyStepKeepsTheInvariant s t hinv ht
      have hall' := (State.allAArch64_of_sameWorld (stepWritesNoRegisterAndNoMemory s t ht)).trans hall
      obtain ⟨k, u, ad, hk, hrun, hidle, hu, hur⟩ := ih _ (hn ▸ hlower) t rfl hinv' hall' hbusy
      exact ⟨k + 1, u, ad, by omega, (run_succ_of_step ht k).trans hrun, hidle, by rw [hu, hresults],
        hur.trans hrequests⟩

end Sys2Proof.Machine
end

section
/-! PROOFS. Outside Secure state the Secure memory has no influence (R62): no operation but the fetch of a descriptor
reads a memory, and the invariant has every descriptor fetched from the Non-secure one. -/

namespace Sys2Proof.Machine

/-- The state with another Secure memory. -/
def State.withMemS (s : State) (m : Memory) : State := { s with memS := m }

/-! ### What does not see the Secure memory -/

section
variable (s : State) (m : Memory)
@[simp] theorem State.withMemS_twoStages : (s.withMemS m).twoStages = s.twoStages := rfl
@[simp] theorem State.withMemS_s2Enabled : (s.withMemS m).s2Enabled = s.s2Enabled := rfl
@[simp] theorem State.withMemS_s2WalkAssert : (s.withMemS m).s2WalkAssert = s.s2WalkAssert := rfl
@[simp] theorem State.withMemS_openStage1 : (s.withMemS m).openStage1 = s.openStage1 := rfl
@[simp] theorem State.withMemS_openStage2 : (s.withMemS m).openStage2 = s.openStage2 := rfl
@[simp] theorem State.withMemS_leafFault : (s.withMemS m).leafFault = s.leafFault := rfl
@[simp] theorem State.withMemS_s1OffInRange : (s.withMemS m).s1OffInRange = s.s1OffInRange := rfl
@[simp] theorem State.withMemS_s1Enabled : (s.withMemS m).s1Enabled = s.s1Enabled := rfl
@[simp] theorem State.withMemS_unknown : (s.withMemS m).unknown = s.unknown := rfl
@[simp] theorem State.withMemS_stage2Checks : (s.withMemS m).stage2Checks = s.stage2Checks := rfl
@[simp] theorem State.withMemS_record (r : TLBRecord) : (s.withMemS m).record r = (s.record r).withMemS m := rfl
theorem State.withMemS_finishFault (target : Target) (f : FaultRecord) :
    (s.withMemS m).finishFault target f = (s.finishFault target f).withMemS m := by
  cases target with
  | stage1 | access | table => rfl
end

/-! ### The operations carry the other memory along -/

/-- The operation on a state with another Secure memory does the same and keeps that memory. -/
def IgnoresMemS (op : State → Result) : Prop :=
  ∀ (s : State) (m : Memory), op (s.withMemS m) = mapNext (·.withMemS m) (op s)

theorem IgnoresMemS.refused (r : Refusal) : IgnoresMemS fun _ => .refused r := fun _ _ => rfl

theorem IgnoresMemS.next {f : State → State} (hf : ∀ s m, f (State.withMemS s m) = (f s).withMemS m) :
    IgnoresMemS fun s => .next (f s) :=
  fun s m => congrArg Host.Outcome.next (hf s m)

theorem IgnoresMemS.ite {c : State → Bool} {a b : State → Result} (hc : ∀ s m, c (State.withMemS s m) = c s)
    (ha : IgnoresMemS a) (hb : IgnoresMemS b) : IgnoresMemS fun s => if c s then a s else b s := by
  intro s m
  simp only [hc s m]
  split
  · exact ha s m
  · exact hb s m

theorem State.finishFault_ignoresMemS (target : Target) {f : State → FaultRecord}
    (hf : ∀ s m, f (State.withMemS s m) = f s) : IgnoresMemS fun s => .next (s.finishFault target (f s)) :=
  .next fun s m => by rw [hf, State.withMemS_finishFault]

/-- A walk that opens or not, the same with either memory. -/
theorem IgnoresMemS.opened {o : State → Except FaultKind Walk} {onError : State → FaultKind → Result}
    {onOk : State → Walk → Result} (ho : ∀ s m, o (State.withMemS s m) = o s)
    (hError : ∀ k, IgnoresMemS (onError · k)) (hOk : ∀ w, IgnoresMemS (onOk · w)) :
    IgnoresMemS fun s => match o s with | .error k => onError s k | .ok w => onOk s w := by
  intro s m
  simp only [ho s m]
  split
  · exact hError _ s m
  · exact hOk _ s m

theorem State.secondStage_ignoresMemS (req : Request) (s1 : AddressDescriptor) (outer : Option Walk) :
    IgnoresMemS (·.secondStage req s1 outer) := by
  refine .ite (fun _ _ => rfl) (.refused _) (.ite (fun _ _ => rfl) ?_ (.ite (fun _ _ => rfl) (.refused _) ?_))
  · cases outer with
    | none | some w => exact .next fun _ _ => rfl
  · exact .opened (fun _ _ => rfl) (fun k => State.finishFault_ignoresMemS _ fun _ _ => rfl)
      fun w2 => .next fun _ _ => rfl

theorem State.enterStage1_ignoresMemS (req : Request) (w : Walk) : IgnoresMemS (·.enterStage1 req w) :=
  .ite (fun _ _ => rfl) (.next fun _ _ => rfl) fun s m =>
    State.secondStage_ignoresMemS req (descaddr (s.unknown .descAddrS1) w) (some w) s m

theorem State.enterLevel_ignoresMemS (req : Request) (w : Walk) (target : Target) :
    IgnoresMemS (·.enterLevel req w target) := by
  intro s m
  cases target with
  | stage1 => exact State.enterStage1_ignoresMemS req w s m
  | access | table => rfl

theorem State.afterStage1_ignoresMemS (req : Request) (ad : AddressDescriptor) :
    IgnoresMemS (·.afterStage1 req ad) :=
  .ite (fun _ _ => rfl) (State.secondStage_ignoresMemS req ad none) (.next fun _ _ => rfl)

theorem State.completeStage1_ignoresMemS (req : Request) (r : TLBRecord) (ip : PAddr) (check : Bool) :
    IgnoresMemS (·.completeStage1 req r ip check) :=
  fun s m => State.afterStage1_ignoresMemS req _ (s.record r) m

theorem State.afterStage2Walk_ignoresMemS (req : Request) (w : Walk) (target : Target) (r : TLBRecord) :
    IgnoresMemS (·.afterStage2Walk req w target r) := by
  refine .ite (fun _ _ => rfl) (.refused _) ?_
  cases target with
  | stage1 => exact .refused _
  | access s1 => exact .next fun _ _ => rfl
  | table outer s1 => exact .ite (fun _ _ => rfl) (.next fun _ _ => rfl) (.next fun _ _ => rfl)

theorem State.stage1On_ignoresMemS (req : Request) : IgnoresMemS (·.stage1On req) :=
  .opened (fun _ _ => rfl) (fun _ => State.finishFault_ignoresMemS _ fun _ _ => rfl)
    fun w => State.enterStage1_ignoresMemS req w

theorem State.stage1Off_ignoresMemS (req : Request) : IgnoresMemS (·.stage1Off req) :=
  .ite (fun _ _ => rfl) (State.finishFault_ignoresMemS _ fun _ _ => rfl) fun s m =>
    State.completeStage1_ignoresMemS req (s.s1OffRecord req) (s.unknown .firstStage).ipaddress false s m

theorem State.fullTranslate_ignoresMemS (req : Request) : IgnoresMemS (·.fullTranslate req) :=
  .ite (fun _ _ => rfl) (.refused _)
    (.ite (fun _ _ => rfl) (State.stage1On_ignoresMemS req) (State.stage1Off_ignoresMemS req))

theorem State.takeRequest_ignoresMemS : IgnoresMemS (·.takeRequest) := by
  intro s m
  have hrequests : (s.withMemS m).requests = s.requests := rfl
  simp only [State.takeRequest, hrequests]
  split
  · rfl
  · exact State.fullTranslate_ignoresMemS _ { s with requests := _ } m

/-! ### The meanings of the words -/

theorem State.onDescriptor_ignoresMemS (i : Instr) {k : State → Request → Walk → Target → Result}
    (hk : ∀ req w target, IgnoresMemS (k · req w target)) : IgnoresMemS fun s => s.onDescriptor i (k s) := by
  intro s m
  have hphase : (s.withMemS m).phase = s.phase := rfl
  simp only [State.onDescriptor, hphase]
  split
  · split
    · exact hk _ _ _ s m
    · rfl
  · rfl
  · rfl

theorem State.invalidDescriptor_ignoresMemS (i : Instr) : IgnoresMemS (·.invalidDescriptor i) :=
  State.onDescriptor_ignoresMemS i fun _ _ target => State.finishFault_ignoresMemS target fun _ _ => rfl

theorem State.tableDescriptor_ignoresMemS (i : Instr) (a : BitVec 36) (ns ro pv xn pxn : Bool) :
    IgnoresMemS (·.tableDescriptor i a ns ro pv xn pxn) :=
  State.onDescriptor_ignoresMemS i fun req _ target =>
    .ite (fun _ _ => rfl) (State.finishFault_ignoresMemS target fun _ _ => rfl)
      (State.enterLevel_ignoresMemS req _ target)

/-- The checks of a block or page, the same with either memory. -/
theorem IgnoresMemS.leaf {w : Walk} {contiguous af : Bool} {addr : BitVec 36} {onFault : State → FaultKind → Result}
    {onPass : State → Result} (hFault : ∀ k, IgnoresMemS (onFault · k)) (hPass : IgnoresMemS onPass) :
    IgnoresMemS fun s => match s.leafFault w contiguous addr af with | some k => onFault s k | none => onPass s := by
  intro s m
  simp only [State.withMemS_leafFault]
  split
  · exact hFault _ s m
  · exact hPass s m

theorem State.leafS1_ignoresMemS (i : Instr) (f : LeafS1) : IgnoresMemS (·.leafS1 i f) :=
  State.onDescriptor_ignoresMemS i fun _ _ target =>
    .leaf (fun _ => State.finishFault_ignoresMemS target fun _ _ => rfl) (.next fun _ _ => rfl)

theorem State.leafS2_ignoresMemS (i : Instr) (f : LeafS2) : IgnoresMemS (·.leafS2 i f) :=
  State.onDescriptor_ignoresMemS i fun req w target =>
    .leaf (fun _ => State.finishFault_ignoresMemS target fun _ _ => rfl) fun s m =>
      State.afterStage2Walk_ignoresMemS req w target (s.stage2Record req w f) s m

theorem State.onAttribute_ignoresMemS (spec : State → BitVec 2 → AccType → AttrSpec)
    (hspec : ∀ s m, spec (State.withMemS s m) = spec s) : IgnoresMemS fun s => s.onAttribute (spec s) := by
  intro s m
  cases hp : s.phase with
  | attr req ip r sh index =>
    have hp' : (s.withMemS m).phase = .attr req ip r sh index := hp
    simp only [State.onAttribute_eq hp, State.onAttribute_eq hp', hspec]
    exact State.completeStage1_ignoresMemS req _ ip true s m
  | walking | idle =>
    have hp' : (s.withMemS m).phase = _ := hp
    simp only [State.onAttribute, hp, hp']
    rfl

theorem State.rowSpec_withMemS (i : Instr) (s : State) (m : Memory) : (s.withMemS m).rowSpec i = s.rowSpec i := by
  cases i <;> rfl

/-- A MAIR term that stands for no byte of its row (R248, R249). -/
theorem exec_mair_of_not_wf {i : Instr} (hm : i.isMair = true) (hw : i.wf = false) (s : State) :
    exec i s = .refused .unreachable := by
  cases i with
  | mairReservedNormal o =>
    simp only [Instr.wf, bne_eq_false_iff_eq] at hw
    exact if_pos hw
  | mairNormal o n =>
    simp only [Instr.wf, Bool.and_eq_false_iff, bne_eq_false_iff_eq] at hw
    exact if_pos (by simpa using hw)
  | descInvalid | descReservedL3 | descBlockNotAllowed | descTableS1El10 | descTableS1El2El3 | descTableS2
  | descBlockS1 | descPageS1 | descBlockS2 | descPageS2 => cases hm
  | mairDeviceNGnRnE | mairDeviceNGnRE | mairDeviceNGRE | mairDeviceGRE | mairReservedDevice01
  | mairReservedDevice10 | mairReservedDevice11 => nomatch hw

theorem exec_mair_ignoresMemS {i : Instr} (hm : i.isMair = true) : IgnoresMemS (exec i) := by
  intro s m
  cases hw : i.wf with
  | false =>
    rw [exec_mair_of_not_wf hm hw, exec_mair_of_not_wf hm hw]
    rfl
  | true =>
    rw [exec_mair hm hw, exec_mair hm hw]
    exact State.onAttribute_ignoresMemS (·.rowSpec i) (State.rowSpec_withMemS i) s m

/-- No word's meaning reads the Secure memory. -/
theorem exec_ignoresMemS (i : Instr) : IgnoresMemS (exec i) := by
  cases i with
  | descInvalid | descReservedL3 | descBlockNotAllowed => exact State.invalidDescriptor_ignoresMemS _
  | descTableS1El10 | descTableS1El2El3 | descTableS2 => exact State.tableDescriptor_ignoresMemS _ _ _ _ _ _ _
  | descBlockS1 f | descPageS1 f => exact State.leafS1_ignoresMemS _ f
  | descBlockS2 f | descPageS2 f => exact State.leafS2_ignoresMemS _ f
  | mairDeviceNGnRnE | mairDeviceNGnRE | mairDeviceNGRE | mairDeviceGRE | mairReservedDevice01
  | mairReservedDevice10 | mairReservedDevice11 | mairReservedNormal | mairNormal => exact exec_mair_ignoresMemS rfl

/-! ### The step -/

/-- Outside Secure state the word fetched is the same: a descriptor comes from the Non-secure memory. -/
theorem State.fetched_withMemS {s : State} (hinv : s.inv = true) (hsecure : s.isSecure = false) (m : Memory) :
    (s.withMemS m).fetched = s.fetched := by
  obtain ⟨-, -, hphase⟩ := s.inv_iff.mp hinv
  cases hp : s.phase with
  | idle =>
    have hp' : (s.withMemS m).phase = .idle := hp
    simp only [State.fetched, hp, hp']
  | attr req ip r sh index =>
    have hp' : (s.withMemS m).phase = .attr req ip r sh index := hp
    rw [State.fetched_of_attr hp, State.fetched_of_attr hp']
    rfl
  | walking req w target d =>
    rw [hp, State.phaseOk_walking_iff] at hphase
    obtain ⟨-, -, -, -, hspace⟩ := hphase
    obtain ⟨-, hns⟩ := hspace.resolve_left (by simp [hsecure])
    have hp' : (s.withMemS m).phase = _ := hp
    have hbytes : (s.withMemS m).fetchBytes d.paddress = s.fetchBytes d.paddress := by
      simp only [State.fetchBytes, hns]
      rfl
    rw [State.fetched_eq_of_walking hp, State.fetched_eq_of_walking hp', hbytes]

/-- Settles O18: the same word is fetched, and its meaning carries the other memory along. -/
theorem nonSecureStepsIgnoreSecureMemory : Obligations.NonSecureStepsIgnoreSecureMemory := by
  intro s m hinv hsecure
  change step (s.withMemS m) = mapNext (·.withMemS m) (step s)
  unfold step
  rw [State.fetched_withMemS hinv hsecure]
  split
  · exact State.takeRequest_ignoresMemS s m
  · exact exec_ignoresMemS _ s m
  · rfl

end Sys2Proof.Machine
end

section
/-! PROOFS. Words and where they stand: the byte orders (R66, R68), the register words (R36), the word placed for the
next step, and the words that come out of turn. -/

namespace Sys2Proof.Machine

/-! ### The byte orders -/

/-- The words are exactly the lists of eight bytes. -/
theorem wordOfBytes_eq_some_iff (bs : List Byte) (v : Word) : wordOfBytes bs = some v ↔ bs = bytesOfWord v := by
  refine ⟨fun h => ?_, fun h => h ▸ wordOfBytes_bytesOfWord v⟩
  unfold wordOfBytes at h
  split at h
  · cases h
    simp (disch := decide) only [bytesOfWord, extract_append_low, extract_append_high, Nat.reduceSub, extract_all]
  · cases h

/-- Bytes that are no word are none in the other order. -/
theorem wordOfBytes_reverse_eq_none {bs : List Byte} (h : wordOfBytes bs = none) : wordOfBytes bs.reverse = none := by
  cases hr : wordOfBytes bs.reverse with
  | none => rfl
  | some v =>
    have hbs : bs = bytesOfWord (bigEndianReverse v) := by
      rw [bytesOfWord_bigEndianReverse, ← (wordOfBytes_eq_some_iff _ v).mp hr, List.reverse_reverse]
    rw [hbs, wordOfBytes_bytesOfWord] at h
    cases h

theorem decode_reversed (c : DescContext) (bs : List Byte) :
    decode (.descriptor true c) bs = decode (.descriptor false c) bs.reverse := by
  cases h : wordOfBytes bs with
  | none => simp only [decode, h, wordOfBytes_reverse_eq_none h]
  | some v =>
    rw [(wordOfBytes_eq_some_iff bs v).mp h, ← bytesOfWord_bigEndianReverse]
    simp only [decode, wordOfBytes_bytesOfWord]
    rfl

/-- Settles O6: each byte of the reversed word is an entry of the reversed list of bytes. -/
theorem bigEndianDescriptorsReadReversed : Obligations.BigEndianDescriptorsReadReversed := by
  refine ⟨fun v i hi => ?_, fun v => ⟨wordOfBytes_bytesOfWord v, ?_⟩, decode_reversed⟩
  · have hbytes := bytesOfWord_bigEndianReverse v
    simp only [bytesOfWord, List.reverse_cons, List.reverse_nil, List.nil_append, List.cons_append,
      List.cons.injEq, and_true] at hbytes
    obtain ⟨h0, h1, h2, h3, h4, h5, h6, h7⟩ := hbytes
    interval_cases i
    · exact h0
    · exact h1
    · exact h2
    · exact h3
    · exact h4
    · exact h5
    · exact h6
    · exact h7
  · rw [← bytesOfWord_bigEndianReverse, wordOfBytes_bytesOfWord]

/-- Settles O7: the decoder evaluates on each word. -/
theorem writtenWordsDecode : Obligations.WrittenWordsDecode := by
  unfold Obligations.WrittenWordsDecode
  decide

/-! ### The register words (R36) -/

theorem sctlrOfWord_sctlrWord (r : Sctlr) : sctlrOfWord (sctlrWord r) = r := by
  simp (disch := decide) only [sctlrOfWord, sctlrWord, bit_append_low, bit_append_high, Nat.reduceSub, bit1_zero]

theorem hcrOfWord_hcrWord (r : Hcr) : hcrOfWord (hcrWord r) = r := by
  simp (disch := decide) only [hcrOfWord, hcrWord, bit_append_low, bit_append_high, Nat.reduceSub, bit1_zero]

theorem tcrEl1OfWord_tcrEl1Word (r : TcrEl1) : tcrEl1OfWord (tcrEl1Word r) = r := by
  simp (disch := decide) only [tcrEl1OfWord, tcrEl1Word, bit_append_low, bit_append_high, extract_append_low,
    extract_append_high, Nat.reduceSub, bit1_zero, extract_all]

theorem tcrEl23OfWord_tcrEl23Word (r : TcrEl23) : tcrEl23OfWord (tcrEl23Word r) = r := by
  simp (disch := decide) only [tcrEl23OfWord, tcrEl23Word, bit_append_low, bit_append_high, extract_append_low,
    extract_append_high, Nat.reduceSub, bit1_zero, extract_all]

theorem vtcrOfWord_vtcrWord (r : Vtcr) : vtcrOfWord (vtcrWord r) = r := by
  simp (disch := decide) only [vtcrOfWord, vtcrWord, extract_append_low, extract_append_high, Nat.reduceSub,
    extract_all]

theorem scrOfWord_scrWord (r : Scr) : scrOfWord (scrWord r) = r := by
  simp (disch := decide) only [scrOfWord, scrWord, bit_append_low, bit_append_high, Nat.reduceSub, bit1_zero]

theorem writeRegister_readRegister (r : Registers) (n : SysReg) : writeRegister r n (readRegister r n) = r := by
  cases n with
  | sctlrEl1 | sctlrEl2 | sctlrEl3 => simp only [writeRegister, readRegister, sctlrOfWord_sctlrWord]
  | hcrEl2 => simp only [writeRegister, readRegister, hcrOfWord_hcrWord]
  | tcrEl1 => simp only [writeRegister, readRegister, tcrEl1OfWord_tcrEl1Word]
  | tcrEl2 | tcrEl3 => simp only [writeRegister, readRegister, tcrEl23OfWord_tcrEl23Word]
  | vtcrEl2 => simp only [writeRegister, readRegister, vtcrOfWord_vtcrWord]
  | scrEl3 => simp only [writeRegister, readRegister, scrOfWord_scrWord]
  | ttbr0El1 | ttbr1El1 | ttbr0El2 | ttbr0El3 | vttbrEl2 | mairEl1 | mairEl2 | mairEl3 => rfl

/-- A write of one register leaves every other as it was: each pair of registers is of two fields. -/
theorem readRegister_writeRegister_ne (r : Registers) {n m : SysReg} (v : Word) (h : m ≠ n) :
    readRegister (writeRegister r n v) m = readRegister r m := by
  cases n <;> cases m <;> first | rfl | exact absurd rfl h

/-! A register word is put together from pieces. A piece at bit `off` keeps of the word written what `holds` says. -/

/-- `x`, whose lowest bit stands at bit `off`, has the bits of `v` that `holds` names, and zeros elsewhere. -/
def KeepsBits (holds : Nat → Bool) (v : Word) (off : Nat) {n : Nat} (x : BitVec n) : Prop :=
  ∀ k, k < n → x.getLsbD k = (holds (off + k) && v.getLsbD (off + k))

section
variable {holds : Nat → Bool} {v : Word} {off m n : Nat}

theorem KeepsBits.append {x : BitVec m} {y : BitVec n} (hx : KeepsBits holds v (off + n) x)
    (hy : KeepsBits holds v off y) : KeepsBits holds v off (x ++ y) := by
  intro k hk
  rw [BitVec.getLsbD_append]
  split
  · exact hy k ‹_›
  · rw [hx (k - n) (by omega), show off + n + (k - n) = off + k by omega]

theorem KeepsBits.zero (h : ∀ k, k < n → holds (off + k) = false) : KeepsBits holds v off 0#n := by
  intro k hk
  rw [h k hk, BitVec.getLsbD_zero, Bool.false_and]

theorem KeepsBits.field (h : ∀ k, k < n → holds (off + k) = true) : KeepsBits holds v off (v.extractLsb' off n) := by
  intro k hk
  rw [h k hk, BitVec.getLsbD_extractLsb', decide_eq_true hk]

theorem KeepsBits.bit (h : holds off = true) : KeepsBits holds v off (bit1 (v.getLsbD off)) := by
  intro k hk
  obtain rfl : k = 0 := by omega
  rw [Nat.add_zero, h, bit1_zero, Bool.true_and]

theorem KeepsBits.whole (h : ∀ k, k < 64 → holds k = true) : KeepsBits holds v 0 v := by
  intro k hk
  rw [Nat.zero_add, h k hk, Bool.true_and]

end

theorem sctlrWord_keeps (v : Word) : KeepsBits SysReg.sctlrEl1.holdsBit v 0 (sctlrWord (sctlrOfWord v)) := by
  unfold sctlrWord
  repeat' apply KeepsBits.append
  all_goals first | apply KeepsBits.zero | apply KeepsBits.bit
  all_goals decide

theorem hcrWord_keeps (v : Word) : KeepsBits SysReg.hcrEl2.holdsBit v 0 (hcrWord (hcrOfWord v)) := by
  unfold hcrWord
  repeat' apply KeepsBits.append
  all_goals first | apply KeepsBits.zero | apply KeepsBits.bit
  all_goals decide

theorem tcrEl1Word_keeps (v : Word) : KeepsBits SysReg.tcrEl1.holdsBit v 0 (tcrEl1Word (tcrEl1OfWord v)) := by
  unfold tcrEl1Word
  repeat' apply KeepsBits.append
  all_goals first | apply KeepsBits.zero | apply KeepsBits.bit | apply KeepsBits.field
  all_goals decide

theorem tcrEl23Word_keeps (v : Word) : KeepsBits SysReg.tcrEl2.holdsBit v 0 (tcrEl23Word (tcrEl23OfWord v)) := by
  unfold tcrEl23Word
  repeat' apply KeepsBits.append
  all_goals first | apply KeepsBits.zero | apply KeepsBits.bit | apply KeepsBits.field
  all_goals decide

theorem vtcrWord_keeps (v : Word) : KeepsBits SysReg.vtcrEl2.holdsBit v 0 (vtcrWord (vtcrOfWord v)) := by
  unfold vtcrWord
  repeat' apply KeepsBits.append
  all_goals first | apply KeepsBits.zero | apply KeepsBits.bit | apply KeepsBits.field
  all_goals decide

theorem scrWord_keeps (v : Word) : KeepsBits SysReg.scrEl3.holdsBit v 0 (scrWord (scrOfWord v)) := by
  unfold scrWord
  repeat' apply KeepsBits.append
  all_goals first | apply KeepsBits.zero | apply KeepsBits.bit
  all_goals decide

/-- A register reads as the word last written, at the bits it keeps. -/
theorem readRegister_writeRegister_keeps (r : Registers) (n : SysReg) (v : Word) :
    KeepsBits n.holdsBit v 0 (readRegister (writeRegister r n v) n) := by
  cases n with
  | sctlrEl1 | sctlrEl2 | sctlrEl3 => exact sctlrWord_keeps v
  | hcrEl2 => exact hcrWord_keeps v
  | tcrEl1 => exact tcrEl1Word_keeps v
  | tcrEl2 | tcrEl3 => exact tcrEl23Word_keeps v
  | vtcrEl2 => exact vtcrWord_keeps v
  | scrEl3 => exact scrWord_keeps v
  | ttbr0El1 | ttbr1El1 | ttbr0El2 | ttbr0El3 | vttbrEl2 | mairEl1 | mairEl2 | mairEl3 =>
    exact .whole (by decide)

/-- Settles O8: each word is the fields of its register at their bits, and each register is a field of its own. -/
theorem registerWordsRoundTrip : Obligations.RegisterWordsRoundTrip := by
  refine ⟨writeRegister_readRegister, fun r n m v h => readRegister_writeRegister_ne r v h, fun r n v k hk => ?_,
    fun r v => ⟨rfl, rfl, rfl, rfl, rfl, rfl, rfl, rfl, rfl, rfl, rfl, rfl, rfl, rfl, rfl, rfl, rfl⟩⟩
  have hkeeps := readRegister_writeRegister_keeps r n v k hk
  rwa [Nat.zero_add] at hkeeps

/-! ### The word placed for the next step -/

/-- Byte 0 of the regime's MAIR is the byte placed there. -/
theorem State.mairByte_setMairByte0 (s : State) (b : Byte) : (s.setMairByte0 b).mairByte 0 = b := by
  have hput (v : Word) : (v.extractLsb' 8 56 ++ b : Word).extractLsb' 0 8 = b := by
    rw [extract_append_low _ _ (by decide), extract_all]
  cases hel : s.el with
  | el0 | el1 | el2 | el3 => simp only [State.setMairByte0, State.mairByte, State.mair, hel]; exact hput _

/-- The eight bytes written at the place of a descriptor are read back from there (R66). -/
theorem read_placed_bytes {m : Memory} (h : Memory.wf m = true) (v : Word) :
    (List.range 8).map (fun k => Memory.read (Memory.writeBytes m placeAddress.toNat (bytesOfWord v))
      (placeAddress + BitVec.ofNat 48 k).toNat) = bytesOfWord v := by
  refine List.ext_getElem rfl fun k hk hlen => ?_
  have hk8 : k < 8 := hlen
  have haddr : (placeAddress + BitVec.ofNat 48 k).toNat = placeAddress.toNat + k := by
    rw [BitVec.toNat_add, BitVec.toNat_ofNat, show placeAddress.toNat = 0x1000 from rfl]
    omega
  rw [List.getElem_map, List.getElem_range, haddr]
  exact Memory.read_writeBytes h placeAddress.toNat (bytesOfWord v) k hlen
    (show placeAddress.toNat + 8 ≤ 2 ^ 48 by decide)

/-- The walk of `placeWord` reads its descriptor at the place. -/
theorem descriptorAddress_placeWalk (ns : Bool) :
    descriptorAddress (placeWalk ns) = { physicaladdress := placeAddress, ns := ns } := by
  cases ns <;> decide

/-- The phase in which a placed descriptor is due. -/
def placedWalk (ns : Bool) : Phase :=
  .walking placeRequest (placeWalk ns) .stage1
    { fault := (placeRecord ns).addrdesc.fault, memattrs := (placeWalk ns).memattrs,
      paddress := descriptorAddress (placeWalk ns), vaddress := 0 }

theorem State.withFetchWord_mair (s : State) {nbits : Nat} (v : Nat) (h : nbits ≤ 8) :
    s.withFetchWord nbits v =
      { s.setMairByte0 (BitVec.ofNat 8 v) with phase := .attr placeRequest 0 (placeRecord !s.isSecure) 0 0 } :=
  if_pos h

/-- A descriptor is placed in the memory of the security state. -/
theorem State.withFetchWord_descriptor (s : State) {nbits : Nat} (v : Nat) (h : 8 < nbits) :
    s.withFetchWord nbits v =
      if s.isSecure = true then
        { s with
          phase := placedWalk false
          memS := Memory.writeBytes s.memS placeAddress.toNat (bytesOfWord (BitVec.ofNat 64 v)) }
      else
        { s with
          phase := placedWalk true
          memNS := Memory.writeBytes s.memNS placeAddress.toNat (bytesOfWord (BitVec.ofNat 64 v)) } := by
  have hdescriptor : ¬ nbits ≤ 8 := Nat.not_le.mpr h
  cases hs : s.isSecure with
  | true | false => simp [State.withFetchWord, State.placeWord, hdescriptor, hs, placedWalk]

/-- A placed descriptor that stands in memory is decoded in `tableContext`. -/
theorem State.fetched_of_placedWalk {t : State} {ns : Bool} {v : Word} (hp : t.phase = placedWalk ns)
    (hbytes : (List.range 8).map (fun k => t.readByte ns (placeAddress + BitVec.ofNat 48 k).toNat) = bytesOfWord v) :
    t.fetched = some (.ok (decodeDescriptor tableContext v)) := by
  have hcontext : walkContext (placeWalk ns) .stage1 = tableContext := rfl
  have hfetch : t.fetchBytes (descriptorAddress (placeWalk ns)) = bytesOfWord v := by
    rw [State.fetchBytes_eq, descriptorAddress_placeWalk, hbytes]
  rw [State.fetched_eq_of_walking hp, hfetch, hcontext]
  exact congrArg some (decode_stored_descriptor false tableContext v)

theorem State.fetched_withFetchWord_descriptor {s : State} (hS : Memory.wf s.memS = true)
    (hNS : Memory.wf s.memNS = true) {nbits : Nat} (v : Nat) (h : 8 < nbits) :
    (s.withFetchWord nbits v).fetched = some (.ok (decodeDescriptor tableContext (BitVec.ofNat 64 v))) := by
  rw [State.withFetchWord_descriptor s v h]
  split
  · exact State.fetched_of_placedWalk (ns := false) rfl (read_placed_bytes hS _)
  · exact State.fetched_of_placedWalk (ns := true) rfl (read_placed_bytes hNS _)

theorem State.fetched_withFetchWord_mair (s : State) {nbits : Nat} (v : Nat) (h : nbits ≤ 8) :
    (s.withFetchWord nbits v).fetched = some (.ok (decodeMair (BitVec.ofNat 8 v))) := by
  rw [State.withFetchWord_mair s v h, State.fetched_of_attr rfl]
  exact congrArg (fun b => some (Except.ok (decodeMair b))) (s.mairByte_setMairByte0 _)

/-- What placing a word leaves alone. -/
structure SameContext (s t : State) : Prop where
  cfg : t.cfg = s.cfg
  el : t.el = s.el
  el0 : t.el0Aarch32 = s.el0Aarch32
  el1 : t.el1Aarch32 = s.el1Aarch32
  el2 : t.el2Aarch32 = s.el2Aarch32
  el3 : t.el3Aarch32 = s.el3Aarch32
  requests : t.requests = s.requests
  results : t.results = s.results

theorem State.setMairByte0_sameContext (s : State) (b : Byte) (p : Phase) :
    SameContext s { s.setMairByte0 b with phase := p } := by
  unfold State.setMairByte0
  split <;> exact ⟨rfl, rfl, rfl, rfl, rfl, rfl, rfl, rfl⟩

theorem State.withFetchWord_sameContext (s : State) (nbits v : Nat) : SameContext s (s.withFetchWord nbits v) := by
  obtain h | h := Nat.lt_or_ge 8 nbits
  · rw [State.withFetchWord_descriptor s v h]
    split <;> exact ⟨rfl, rfl, rfl, rfl, rfl, rfl, rfl, rfl⟩
  · rw [State.withFetchWord_mair s v h]
    exact s.setMairByte0_sameContext _ _

/-- Settles O11: the byte is read from the MAIR it was put in, the eight bytes from the memory. -/
theorem placedWordIsDecodedNext : Obligations.PlacedWordIsDecodedNext := by
  intro s nbits v hS hNS
  have hsame := s.withFetchWord_sameContext nbits v
  exact ⟨s.fetched_withFetchWord_mair v, State.fetched_withFetchWord_descriptor hS hNS v, hsame.cfg, hsame.el,
    hsame.el0, hsame.el1, hsame.el2, hsame.el3, hsame.requests, hsame.results⟩

/-! ### Words out of turn (D9) -/

/-- A descriptor is carried out by the walk that waits for one. -/
theorem exec_descriptor {i : Instr} (hm : i.isMair = false) (s : State) : ∃ k, exec i s = s.onDescriptor i k := by
  cases i with
  | descInvalid | descReservedL3 | descBlockNotAllowed | descTableS1El10 | descTableS1El2El3 | descTableS2
  | descBlockS1 | descPageS1 | descBlockS2 | descPageS2 => exact ⟨_, rfl⟩
  | mairDeviceNGnRnE | mairDeviceNGnRE | mairDeviceNGRE | mairDeviceGRE | mairReservedDevice01
  | mairReservedDevice10 | mairReservedDevice11 | mairReservedNormal | mairNormal => cases hm

/-- Settles O60: the two ways a word is handed to the call in progress, and the terms that are no word. -/
theorem wordsOutOfTurnAreRefused : Obligations.WordsOutOfTurnAreRefused := by
  refine fun s i => ⟨fun hm => ?_, fun hm hw => exec_mair_of_not_wf hm hw s, fun hm hw => ?_⟩
  · obtain ⟨k, hexec⟩ := exec_descriptor hm s
    rw [hexec, State.onDescriptor]
    refine ⟨fun hp => ?_, fun req ip r sh index hp => ?_, fun req w target d hp hf => ?_⟩
    · rw [hp]
    · rw [hp]
    · simp only [hp, hf, Bool.false_eq_true, if_false]
  · rw [exec_mair hm hw, State.onAttribute]
    refine ⟨fun hp => ?_, fun req w target d hp => ?_⟩
    · rw [hp]
    · rw [hp]

end Sys2Proof.Machine
end

section
/-! PROOFS. The bits of a descriptor that the walk does not read (R92, R102, R214, R224, R225, R227): what each row
does depends on the address bits from the table's or block's bottom on, and on the fields that the row reads. -/

namespace Sys2Proof.Machine

/-! ### The address bits -/

/-- Words that agree on bits [47:b] have the same address from bit `b` on. -/
theorem clearLow_addrField_congr {v v' : Word} {b : Nat} (hb : 12 ≤ b)
    (h : ∀ k, b ≤ k → k ≤ 47 → v.getLsbD k = v'.getLsbD k) :
    clearLow (addrField (v.extractLsb' 12 36)) b = clearLow (addrField (v'.extractLsb' 12 36)) b := by
  have hbit (u : Word) {j : Nat} (hj : j < 48) (hbj : b ≤ j) :
      (clearLow (addrField (u.extractLsb' 12 36)) b).getLsbD j = u.getLsbD j := by
    simp only [clearLow, addrField, BitVec.getLsbD_shiftLeft, BitVec.getLsbD_ushiftRight]
    rw [show b + (j - b) = j by omega, bit_append_high _ _ (by omega), BitVec.getLsbD_extractLsb',
      show 12 + (j - 12) = j by omega]
    have hb' : ¬ j < b := Nat.not_lt.mpr hbj
    have hj' : j - 12 < 36 := by omega
    simp only [hj, hb', hj', decide_true, decide_false, Bool.not_false, Bool.true_and]
  apply BitVec.eq_of_getLsbD_eq
  intro j hj
  obtain hlow | hbj := Nat.lt_or_ge j b
  · simp only [clearLow, BitVec.getLsbD_shiftLeft, hlow, decide_true, Bool.not_true, Bool.and_false, Bool.false_and]
  · rw [hbit v hj hbj, hbit v' hj hbj, h j hbj (by omega)]

/-- Every output size is at least 32 bits, so the bits below a block's or table's bottom make no address too wide. -/
theorem addressTooWide_clearLow (v : PAddr) {k : Nat} (hk : k ≤ 32) (o : PaSize) :
    addressTooWide (clearLow v k) o = addressTooWide v o := by
  obtain ⟨ho, -⟩ := PaSize.bits_bounds o
  obtain ⟨j, hj⟩ := Nat.exists_eq_add_of_le (hk.trans ho)
  rw [Bool.eq_iff_iff, addressTooWide_iff, addressTooWide_iff, clearLow_toNat, hj, Nat.add_comm, Nat.pow_add]
  rw [Nat.mul_le_mul_right_iff (Nat.two_pow_pos k), Nat.le_div_iff_mul_le (Nat.two_pow_pos k)]

theorem addressTooWide_congr {a a' : BitVec 36} {k : Nat} (hk : k ≤ 32)
    (h : clearLow (addrField a) k = clearLow (addrField a') k) (o : PaSize) :
    addressTooWide (addrField a) o = addressTooWide (addrField a') o := by
  rw [← addressTooWide_clearLow _ hk, h, addressTooWide_clearLow _ hk]

/-! ### What the rows read -/

section
variable {s : State} {req : Request} {w : Walk} {target : Target} {d : AddressDescriptor} {i i' : Instr}

theorem State.tableDescriptor_congr (hp : s.phase = .walking req w target d)
    (hf : fitsContext (walkContext w target) i = true) (hf' : fitsContext (walkContext w target) i' = true)
    {a a' : BitVec 36}
    (ha : clearLow (addrField a) (grainsize w.granule) = clearLow (addrField a') (grainsize w.granule))
    (ns ro pv xn pxn : Bool) :
    s.tableDescriptor i a ns ro pv xn pxn = s.tableDescriptor i' a' ns ro pv xn pxn := by
  have hsize : grainsize w.granule ≤ 32 := by cases w.granule <;> decide
  have hnext : descend w a ns ro pv xn pxn = descend w a' ns ro pv xn pxn := by
    simp only [descend, nextTableBase, ha]
  simp only [State.tableDescriptor, State.onDescriptor_of_fits hp hf, State.onDescriptor_of_fits hp hf',
    addressTooWide_congr hsize ha, hnext]

theorem State.leafFault_congr {contiguous af : Bool} {a a' : BitVec 36} {k : Nat} (hk : k ≤ 32)
    (ha : clearLow (addrField a) k = clearLow (addrField a') k) :
    s.leafFault w contiguous a af = s.leafFault w contiguous a' af := by
  simp only [State.leafFault, addressTooWide_congr hk ha]

/-- The fields of a stage 1 block or page that its walk reads: AP[1] at bit 6, PXN and nG only in the EL1&0 regime
(R224, R225). -/
structure SameLeafS1 (w : Walk) (f f' : LeafS1) : Prop where
  xn : f.xn = f'.xn
  pxn : w.singlepriv = false → f.pxn = f'.pxn
  contiguous : f.contiguous = f'.contiguous
  addr : clearLow (addrField f.addr) (addrselectbottom w.granule w.level) =
    clearLow (addrField f'.addr) (addrselectbottom w.granule w.level)
  nG : w.singlepriv = false → f.nG = f'.nG
  af : f.af = f'.af
  sh : f.sh = f'.sh
  readOnly : f.ap.getLsbD 1 = f'.ap.getLsbD 1
  user : w.singlepriv = false → f.ap.getLsbD 0 = f'.ap.getLsbD 0
  ns : f.ns = f'.ns
  attrIndx : f.attrIndx = f'.attrIndx

theorem State.stage1Record_congr {f f' : LeafS1} (h : SameLeafS1 w f f') :
    s.stage1Record w f = s.stage1Record w f' := by
  have hperms : stage1Perms w f = stage1Perms w f' := by
    cases hs : w.singlepriv with
    | true => simp only [stage1Perms, hs, h.xn, h.readOnly, Bool.true_or, Bool.not_true, Bool.false_and]
    | false => simp only [stage1Perms, hs, h.xn, h.readOnly, h.user hs, h.pxn hs]
  have hng : s.stage1NG w f = s.stage1NG w f' := by
    cases hs : w.singlepriv with
    | true => simp only [State.stage1NG, hs, Bool.not_true, Bool.false_and]
    | false => simp only [State.stage1NG, h.nG hs]
  simp only [State.stage1Record, hperms, hng, h.contiguous, outputAddress, h.addr, h.ns]

theorem State.leafS1_congr (hp : s.phase = .walking req w target d)
    (hf : fitsContext (walkContext w target) i = true) (hf' : fitsContext (walkContext w target) i' = true)
    (hb : firstblocklevel w.granule ≤ w.level.val) {f f' : LeafS1} (h : SameLeafS1 w f f') :
    s.leafS1 i f = s.leafS1 i' f' := by
  have hbottom : addrselectbottom w.granule w.level ≤ 32 := (addrselectbottom_le _ _ hb).trans (by decide)
  simp only [State.leafS1, State.onDescriptor_of_fits hp hf, State.onDescriptor_of_fits hp hf',
    State.stage1Record_congr h, h.contiguous, h.af, h.sh, h.attrIndx, State.leafFault_congr hbottom h.addr]

/-- The fields of a stage 2 block or page that its walk reads (R227). -/
structure SameLeafS2 (w : Walk) (f f' : LeafS2) : Prop where
  xn : f.xn = f'.xn
  contiguous : f.contiguous = f'.contiguous
  addr : clearLow (addrField f.addr) (addrselectbottom w.granule w.level) =
    clearLow (addrField f'.addr) (addrselectbottom w.granule w.level)
  af : f.af = f'.af
  sh : f.sh = f'.sh
  s2ap : f.s2ap = f'.s2ap
  memAttr : f.memAttr = f'.memAttr

theorem State.leafS2_congr (hp : s.phase = .walking req w target d)
    (hf : fitsContext (walkContext w target) i = true) (hf' : fitsContext (walkContext w target) i' = true)
    (hb : firstblocklevel w.granule ≤ w.level.val) {f f' : LeafS2} (h : SameLeafS2 w f f') :
    s.leafS2 i f = s.leafS2 i' f' := by
  have hbottom : addrselectbottom w.granule w.level ≤ 32 := (addrselectbottom_le _ _ hb).trans (by decide)
  have hrecord : s.stage2Record req w f = s.stage2Record req w f' := by
    simp only [State.stage2Record, h.xn, h.contiguous, outputAddress, h.addr, h.sh, h.s2ap, h.memAttr]
  simp only [State.leafS2, State.onDescriptor_of_fits hp hf, State.onDescriptor_of_fits hp hf', hrecord,
    h.contiguous, h.af, State.leafFault_congr hbottom h.addr]

end

/-! ### The bits that are read -/

/-- The words agree on what the walk reads of the first. -/
def AgreeOnRead (c : DescContext) (v v' : Word) : Prop :=
  ∀ k, k < 64 → bitRead c (v.extractLsb' 0 2) k = true → v.getLsbD k = v'.getLsbD k

/-- The word is a block at a level that allows one, or a page (R91). -/
def LeafWord (g : Granule) (l : Level) (v : Word) : Prop :=
  (v.extractLsb' 0 2 = 0b01 ∧ l ≠ 3 ∧ firstblocklevel g ≤ l.val) ∨ (v.extractLsb' 0 2 = 0b11 ∧ l = 3)

theorem LeafWord.firstblocklevel_le {g : Granule} {l : Level} {v : Word} (h : LeafWord g l v) :
    firstblocklevel g ≤ l.val := by
  obtain ⟨-, -, hb⟩ | ⟨-, rfl⟩ := h
  · exact hb
  · exact firstblocklevel_le_three g

/-- A slice whose bits are all read. -/
theorem extract_congr {v v' : Word} {i n : Nat} (h : ∀ k, i ≤ k → k < i + n → v.getLsbD k = v'.getLsbD k) :
    v.extractLsb' i n = v'.extractLsb' i n := by
  apply BitVec.eq_of_getLsbD_eq
  intro j hj
  rw [BitVec.getLsbD_extractLsb', BitVec.getLsbD_extractLsb', h (i + j) (by omega) (by omega)]

section
variable {c : DescContext} {v v' : Word}

theorem AgreeOnRead.bit_zero (h : AgreeOnRead c v v') : v.getLsbD 0 = v'.getLsbD 0 :=
  h 0 (by decide) rfl

theorem AgreeOnRead.low (h : AgreeOnRead c v v') (h0 : v.getLsbD 0 = true) :
    v.extractLsb' 0 2 = v'.extractLsb' 0 2 := by
  refine extract_congr fun k _ hk => ?_
  obtain rfl | rfl : k = 0 ∨ k = 1 := by omega
  · exact h.bit_zero
  · exact h 1 (by decide) (by simp [bitRead, h0])

/-- A table's next address and, by the regime, its attributes are read (R213, R214). -/
theorem AgreeOnRead.table (h : AgreeOnRead c v v') (h11 : v.extractLsb' 0 2 = 0b11) (hl : c.level ≠ 3) {k : Nat}
    (hk : (grainsize c.granule ≤ k ∧ k ≤ 47) ∨ (c.stage = .s1El10 ∧ 59 ≤ k ∧ k < 64) ∨
      (c.stage = .s1El2El3 ∧ (k = 63 ∨ k = 62 ∨ k = 60))) : v.getLsbD k = v'.getLsbD k := by
  refine h k (by omega) ?_
  have hnotLast : (c.level != 3) = true := bne_iff_ne.mpr hl
  rw [h11]
  obtain ⟨hg, h47⟩ | ⟨hs, hk, -⟩ | ⟨hs, rfl | rfl | rfl⟩ := hk
  · simp [bitRead, hnotLast, hg, h47]
  · simp [bitRead, hnotLast, hs, hk]
  all_goals simp [bitRead, hnotLast, hs]

/-- A block or page: its output address, its attributes and, by the regime, the bits of R224 and R225 are read. -/
theorem AgreeOnRead.leaf (h : AgreeOnRead c v v')
    (hleaf : LeafWord c.granule c.level v) {k : Nat}
    (hk : (addrselectbottom c.granule c.level ≤ k ∧ k ≤ 47) ∨ k = 54 ∨ k = 52 ∨ k = 10 ∨
      (2 ≤ k ∧ k ≤ 9 ∧ (k ≠ 6 ∨ c.stage ≠ .s1El2El3)) ∨ ((k = 53 ∨ k = 11) ∧ c.stage = .s1El10)) :
    v.getLsbD k = v'.getLsbD k := by
  refine h k (by omega) ?_
  have hread : ((decide (addrselectbottom c.granule c.level ≤ k) && decide (k ≤ 47)) || k == 54 || k == 52 || k == 10
      || (decide (2 ≤ k) && decide (k ≤ 9) && (k != 6 || c.stage != .s1El2El3))
      || ((k == 53 || k == 11) && c.stage == .s1El10)) = true := by
    simpa [or_assoc, and_assoc] using hk
  obtain ⟨h01, hl, hb⟩ | ⟨h11, hl⟩ := hleaf
  · have hnotLast : (c.level == 3) = false := beq_false_of_ne hl
    have hallowed : decide (c.level.val < firstblocklevel c.granule) = false := decide_eq_false (Nat.not_lt.mpr hb)
    simp [bitRead, h01, hnotLast, hallowed, hread]
  · have hlast : (c.level != 3) = false := bne_eq_false_iff_eq.mpr hl
    simp [bitRead, h11, hlast, hread]

theorem AgreeOnRead.sameLeafS1 {w : Walk} (h : AgreeOnRead (walkContext w .stage1) v v')
    (hleaf : LeafWord w.granule w.level v) : SameLeafS1 w (decodeLeafS1 v) (decodeLeafS1 v') := by
  have hbits {i n : Nat} (hi : 2 ≤ i) (hn : i + n ≤ 10) (h6 : 6 < i ∨ i + n ≤ 6) :
      v.extractLsb' i n = v'.extractLsb' i n :=
    extract_congr fun k hk hkn => h.leaf hleaf (by omega)
  have hreadOnly (u : Word) : (u.extractLsb' 6 2).getLsbD 1 = u.getLsbD 7 := by simp
  have huser (u : Word) : (u.extractLsb' 6 2).getLsbD 0 = u.getLsbD 6 := by simp
  have hEl10 (hs : w.singlepriv = false) := walkContext_stage_of_not_singlepriv hs
  exact {
    xn := h.leaf hleaf (by omega)
    pxn := fun hs => h.leaf hleaf (.inr (.inr (.inr (.inr (.inr ⟨.inl rfl, hEl10 hs⟩)))))
    contiguous := h.leaf hleaf (by omega)
    addr := clearLow_addrField_congr (addrselectbottom_ge _ _) fun k hk h47 => h.leaf hleaf (.inl ⟨hk, h47⟩)
    nG := fun hs => h.leaf hleaf (.inr (.inr (.inr (.inr (.inr ⟨.inr rfl, hEl10 hs⟩)))))
    af := h.leaf hleaf (by omega)
    sh := hbits (by omega) (by omega) (by omega)
    readOnly := by
      simp only [decodeLeafS1, hreadOnly]
      exact h.leaf hleaf (by omega)
    user := fun hs => by
      simp only [decodeLeafS1, huser]
      refine h.leaf hleaf (.inr (.inr (.inr (.inr (.inl ⟨by decide, by decide, .inr ?_⟩)))))
      rw [hEl10 hs]
      nofun
    ns := h.leaf hleaf (by omega)
    attrIndx := hbits (by omega) (by omega) (by omega) }

theorem AgreeOnRead.sameLeafS2 {w : Walk} {target : Target} (h : AgreeOnRead (walkContext w target) v v')
    (hs : (walkContext w target).stage = .s2)
    (hleaf : LeafWord w.granule w.level v) : SameLeafS2 w (decodeLeafS2 v) (decodeLeafS2 v') := by
  have hstage : (walkContext w target).stage ≠ .s1El2El3 := by
    rw [hs]
    nofun
  have hbits {i n : Nat} (hi : 2 ≤ i) (hn : i + n ≤ 10) : v.extractLsb' i n = v'.extractLsb' i n :=
    extract_congr fun k hk hkn =>
      h.leaf hleaf (.inr (.inr (.inr (.inr (.inl ⟨by omega, by omega, .inr hstage⟩)))))
  exact {
    xn := h.leaf hleaf (by omega)
    contiguous := h.leaf hleaf (by omega)
    addr := clearLow_addrField_congr (addrselectbottom_ge _ _) fun k hk h47 => h.leaf hleaf (.inl ⟨hk, h47⟩)
    af := h.leaf hleaf (by omega)
    sh := hbits (by omega) (by omega)
    s2ap := hbits (by omega) (by omega)
    memAttr := hbits (by omega) (by omega) }

end

/-! ### The two words have the same effect -/

section
variable {s : State} {req : Request} {w : Walk} {target : Target} {d : AddressDescriptor} {v v' : Word}

theorem exec_leafS1_word (s : State) {c : DescContext} (h : LeafWord c.granule c.level v) (hs : c.stage ≠ .s2) :
    exec (decodeDescriptor c v) s = s.leafS1 (decodeDescriptor c v) (decodeLeafS1 v) := by
  obtain ⟨h01, hl, hb⟩ | ⟨h11, hl⟩ := h
  · rw [decodeDescriptor_blockS1 h01 hl hb hs]
    rfl
  · rw [decodeDescriptor_pageS1 h11 hl hs]
    rfl

theorem exec_leafS2_word (s : State) {c : DescContext} (h : LeafWord c.granule c.level v) (hs : c.stage = .s2) :
    exec (decodeDescriptor c v) s = s.leafS2 (decodeDescriptor c v) (decodeLeafS2 v) := by
  obtain ⟨h01, hl, hb⟩ | ⟨h11, hl⟩ := h
  · rw [decodeDescriptor_blockS2 h01 hl hb hs]
    rfl
  · rw [decodeDescriptor_pageS2 h11 hl hs]
    rfl

/-- Two words of a block or page row. -/
theorem exec_leaf_congr (hp : s.phase = .walking req w target d) (h : AgreeOnRead (walkContext w target) v v')
    (hleaf : LeafWord w.granule w.level v) (hlow : v.extractLsb' 0 2 = v'.extractLsb' 0 2) :
    exec (decodeDescriptor (walkContext w target) v) s = exec (decodeDescriptor (walkContext w target) v') s := by
  have hleaf' : LeafWord w.granule w.level v' := by
    rwa [LeafWord, hlow] at hleaf
  have hf := (decodedDescriptorFitsContext (walkContext w target) v).1
  have hf' := (decodedDescriptorFitsContext (walkContext w target) v').1
  by_cases hs : (walkContext w target).stage = .s2
  · rw [exec_leafS2_word s hleaf hs, exec_leafS2_word s hleaf' hs]
    exact State.leafS2_congr hp hf hf' hleaf.firstblocklevel_le (h.sameLeafS2 hs hleaf)
  · obtain rfl := target_eq_stage1_of_stage hs
    rw [exec_leafS1_word s hleaf hs, exec_leafS1_word s hleaf' hs]
    exact State.leafS1_congr hp hf hf' hleaf.firstblocklevel_le (h.sameLeafS1 hleaf)

/-- Two words of a table row. -/
theorem exec_table_congr (hp : s.phase = .walking req w target d) (h : AgreeOnRead (walkContext w target) v v')
    (h11 : v.extractLsb' 0 2 = 0b11) (hl : w.level ≠ 3) (hlow : v.extractLsb' 0 2 = v'.extractLsb' 0 2) :
    exec (decodeDescriptor (walkContext w target) v) s = exec (decodeDescriptor (walkContext w target) v') s := by
  have h11' := hlow.symm.trans h11
  have hf := (decodedDescriptorFitsContext (walkContext w target) v).1
  have hf' := (decodedDescriptorFitsContext (walkContext w target) v').1
  have haddr : clearLow (addrField (v.extractLsb' 12 36)) (grainsize w.granule) =
      clearLow (addrField (v'.extractLsb' 12 36)) (grainsize w.granule) :=
    clearLow_addrField_congr (by cases w.granule <;> decide) fun k hk h47 => h.table h11 hl (.inl ⟨hk, h47⟩)
  cases hs : (walkContext w target).stage with
  | s1El10 =>
    have hbit {k : Nat} (hk : 59 ≤ k) (hk' : k < 64) : v.getLsbD k = v'.getLsbD k :=
      h.table h11 hl (.inr (.inl ⟨hs, hk, hk'⟩))
    rw [decodeDescriptor_tableS1El10 h11 hl hs] at hf ⊢
    rw [decodeDescriptor_tableS1El10 h11' hl hs] at hf' ⊢
    simp only [exec_descTableS1El10, decodeTableS1El10, hbit (show 59 ≤ 63 by decide) (by decide),
      hbit (show 59 ≤ 62 by decide) (by decide), hbit (show 59 ≤ 61 by decide) (by decide),
      hbit (show 59 ≤ 60 by decide) (by decide), hbit (show 59 ≤ 59 by decide) (by decide)]
    exact State.tableDescriptor_congr hp hf hf' haddr ..
  | s1El2El3 =>
    have hbit {k : Nat} (hk : k = 63 ∨ k = 62 ∨ k = 60) : v.getLsbD k = v'.getLsbD k :=
      h.table h11 hl (.inr (.inr ⟨hs, hk⟩))
    rw [decodeDescriptor_tableS1El2El3 h11 hl hs] at hf ⊢
    rw [decodeDescriptor_tableS1El2El3 h11' hl hs] at hf' ⊢
    simp only [exec_descTableS1El2El3, decodeTableS1El2El3, hbit (.inl rfl), hbit (.inr (.inl rfl)),
      hbit (.inr (.inr rfl))]
    exact State.tableDescriptor_congr hp hf hf' haddr ..
  | s2 =>
    rw [decodeDescriptor_tableS2 h11 hl hs] at hf ⊢
    rw [decodeDescriptor_tableS2 h11' hl hs] at hf' ⊢
    exact State.tableDescriptor_congr hp hf hf' haddr ..

end

/-- Settles O5: the words are of the same kind, since bits [1:0] are read; of a table or a leaf only what its walk
reads matters. -/
theorem unreadDescriptorBitsHaveNoEffect : Obligations.UnreadDescriptorBitsHaveNoEffect := by
  intro s req w target d v v' hp h
  have hagree : AgreeOnRead (walkContext w target) v v' := h
  cases h0 : v.getLsbD 0 with
  | false => rw [decodeDescriptor_invalid _ h0, decodeDescriptor_invalid _ (hagree.bit_zero.symm.trans h0)]
  | true =>
    have hlow := hagree.low h0
    obtain h01 | h11 := low_bits_cases h0
    · by_cases hl : w.level = 3
      · rw [decodeDescriptor_reservedL3 h01 hl, decodeDescriptor_reservedL3 (hlow.symm.trans h01) hl]
      · obtain hb | hb := Nat.lt_or_ge w.level.val (firstblocklevel w.granule)
        · rw [decodeDescriptor_blockNotAllowed h01 hl hb, decodeDescriptor_blockNotAllowed (hlow.symm.trans h01) hl hb]
        · exact exec_leaf_congr hp hagree (.inl ⟨h01, hl, hb⟩) hlow
    · by_cases hl : w.level = 3
      · exact exec_leaf_congr hp hagree (.inr ⟨h11, hl⟩) hlow
      · exact exec_table_congr hp hagree h11 hl hlow

end Sys2Proof.Machine
end

section
/-! PROOFS. What follows a stage 1 walk or the flat map (R122, R136 to R139): each result of the checks once, then the
end of the call or stage 2. -/

namespace Sys2Proof.Machine

/-! ### The checks of stage 1, one equation for each result -/

section
variable (s : State) {req : Request} {r : TLBRecord} {check : Bool}

/-- Unaligned data in Device memory (R136). -/
def misalignedDevice (req : Request) (m : MemoryAttributes) : Prop :=
  req.wasaligned = false ∧ req.acctype ≠ .ifetch ∧ m.memtype = .device

theorem not_misalignedDevice_of_normal {m : MemoryAttributes} (h : m.memtype = .normal) :
    ¬misalignedDevice req m := fun ⟨_, _, hd⟩ => nomatch h.symm.trans hd

theorem not_misalignedDevice_of_aligned {m : MemoryAttributes} (h : req.wasaligned = true) :
    ¬misalignedDevice req m := fun ⟨ha, _⟩ => nomatch h.symm.trans ha

theorem not_misalignedDevice_of_ifetch {m : MemoryAttributes} (h : req.acctype = .ifetch) :
    ¬misalignedDevice req m := fun ⟨_, hi, _⟩ => hi h

theorem misalignedDevice_guard_eq_false (hm : ¬misalignedDevice req r.addrdesc.memattrs) :
    (!req.wasaligned && req.acctype != .ifetch && !r.addrdesc.isFault &&
      r.addrdesc.memattrs.memtype == .device) = false := by
  rw [Bool.eq_false_iff]
  intro h
  simp only [Bool.and_eq_true, Bool.not_eq_true', bne_iff_ne, beq_iff_eq] at h
  obtain ⟨⟨⟨ha, hi⟩, -⟩, hd⟩ := h
  exact hm ⟨ha, hi, hd⟩

/-- An access that stage 1 forbids (R137): the fetch check sees the fault and leaves it. -/
theorem State.stage1Checks_of_forbidden (ip : PAddr) (hf : r.addrdesc.isFault = false)
    (hm : ¬misalignedDevice req r.addrdesc.memattrs)
    (hfail : s.s1Fails r.perms r.addrdesc.paddress.ns req.acctype req.iswrite = true) :
    s.stage1Checks req r ip true =
      { r.addrdesc with
        fault := faultRecord .permission (s.unknown .checkPermission).ipaddress r.level req.acctype
          (req.iswrite && req.acctype != .ifetch) false false } := by
  have faulted : (FaultKind.permission != .none) = true := rfl
  simp only [State.stage1Checks, misalignedDevice_guard_eq_false hm, Bool.false_eq_true, if_false]
  simp only [hf, State.checkPermission, hfail, if_true, Bool.false_eq_true, if_false, Bool.not_false, Bool.and_self,
    AddressDescriptor.isFault_mk, faultRecord_kind, faulted, Bool.not_true, Bool.and_false, Bool.false_and]

/-- The descriptor when the alignment and the permission check pass: a permission check leaves the no-fault record. -/
def checkedDescriptor (u : Unknown) (ad : AddressDescriptor) (check : Bool) : AddressDescriptor :=
  { ad with fault := if check = true then noFault u else ad.fault }

theorem checkedDescriptor_isFault (u : Unknown) {ad : AddressDescriptor} (check : Bool) (hf : ad.isFault = false) :
    (checkedDescriptor u ad check).isFault = false := by
  cases check with
  | true => rfl
  | false => exact hf

/-- The alignment and the permission check pass; what is left is the fetch check (R138). -/
theorem State.stage1Checks_of_permitted (ip : PAddr) (hf : r.addrdesc.isFault = false)
    (hm : ¬misalignedDevice req r.addrdesc.memattrs)
    (hpass : check = true → s.s1Fails r.perms r.addrdesc.paddress.ns req.acctype req.iswrite = false) :
    s.stage1Checks req r ip check =
      let ad := checkedDescriptor (s.unknown .checkPermission) r.addrdesc check
      if req.acctype = .ifetch ∧ r.addrdesc.memattrs.memtype = .device then
        s.instructionDevice (s.unknown .instrDeviceS1) ad ip r.level req.acctype req.iswrite false false
      else ad := by
  have hfetch : (req.acctype == .ifetch && !(checkedDescriptor (s.unknown .checkPermission) r.addrdesc check).isFault &&
      r.addrdesc.memattrs.memtype == .device) = true ↔
      req.acctype = .ifetch ∧ r.addrdesc.memattrs.memtype = .device := by
    simp [checkedDescriptor_isFault _ check hf]
  have hchecked : (if (!r.addrdesc.isFault && check) = true then
        { r.addrdesc with
          fault := s.checkPermission (s.unknown .checkPermission) r.perms r.level r.addrdesc.paddress.ns req.acctype
            req.iswrite }
      else r.addrdesc) = checkedDescriptor (s.unknown .checkPermission) r.addrdesc check := by
    cases check with
    | false => simp [checkedDescriptor]
    | true => simp [hf, State.checkPermission, hpass rfl, checkedDescriptor]
  simp only [State.stage1Checks, misalignedDevice_guard_eq_false hm, Bool.false_eq_true, if_false, hchecked]
  exact if_congr hfetch rfl rfl

/-- The checks pass, and there is no fetch from Device memory. -/
theorem State.stage1Checks_of_passes (ip : PAddr) (hf : r.addrdesc.isFault = false)
    (hm : ¬misalignedDevice req r.addrdesc.memattrs)
    (hpass : check = true → s.s1Fails r.perms r.addrdesc.paddress.ns req.acctype req.iswrite = false)
    (hfetch : ¬(req.acctype = .ifetch ∧ r.addrdesc.memattrs.memtype = .device)) :
    s.stage1Checks req r ip check = checkedDescriptor (s.unknown .checkPermission) r.addrdesc check := by
  rw [State.stage1Checks_of_permitted s ip hf hm hpass]
  exact if_neg hfetch

end

/-! ### After the checks -/

section
variable {s : State} {req : Request} {r : TLBRecord} {ip : PAddr} {check : Bool}

/-- A fault of the checks ends the call (R122, R123). -/
theorem State.completeStage1_of_fault {ad : AddressDescriptor} (h : (s.record r).stage1Checks req r ip check = ad)
    (hf : ad.isFault = true) : EndsRecorded s (s.completeStage1 req r ip check) (· = ad.fault) := by
  rw [State.completeStage1, h, State.afterStage1_of_fault _ _ hf]
  exact ⟨r, ad, rfl, rfl⟩

theorem State.afterStage1_of_oneStage (s : State) (req : Request) (ad : AddressDescriptor) (h : s.twoStages = false) :
    s.afterStage1 req ad = .next (s.finish ad) := by
  simp [State.afterStage1, h]

theorem State.afterStage1_of_twoStages {s : State} (req : Request) {ad : AddressDescriptor} (h : s.twoStages = true)
    (hf : ad.isFault = false) : s.afterStage1 req ad = s.secondStage req ad none := by
  simp [State.afterStage1, h, hf]

/-- Checks without a fault complete stage 1: the call ends, or stage 2 takes the address (R122, R139, R164). -/
theorem State.completeStage1_of_ok {ad : AddressDescriptor} {P : MemoryAttributes → Prop}
    (h : (s.record r).stage1Checks req r ip check = ad) (hf : ad.isFault = false) (hP : P ad.memattrs) :
    Stage1Succeeds s req r.addrdesc.paddress P (s.completeStage1 req r ip check) := by
  have hpa : ad.paddress = r.addrdesc.paddress := by rw [← h, State.stage1Checks_paddress]
  rw [State.completeStage1, h]
  refine ⟨r, ad, hf, hpa, hP, fun hone => ?_, fun htwo => ?_⟩
  · rw [State.afterStage1_of_oneStage (s.record r) req ad hone]
    rfl
  · have htwo' : (s.record r).twoStages = true := htwo
    rw [State.afterStage1_of_twoStages req htwo' hf, ← hpa]
    refine State.secondStage_takes (outer := none) htwo' fun hoff => ?_
    have hoff' : (s.record r).s2Enabled = false := hoff
    simp only [State.secondStage, htwo', hoff', Bool.not_true, Bool.not_false, Bool.false_eq_true, if_false, if_true]
    rfl

theorem Stage1Succeeds.mono {p : FullAddress} {P Q : MemoryAttributes → Prop} {res : Result}
    (h : Stage1Succeeds s req p P res) (hPQ : ∀ m, P m → Q m) : Stage1Succeeds s req p Q res := by
  obtain ⟨rec, ad, hf, hpa, hP, hres⟩ := h
  exact ⟨rec, ad, hf, hpa, hPQ _ hP, hres⟩

theorem Ends.mono {res : Result} {P Q : FaultRecord → Prop} (h : Ends s res P) (hPQ : ∀ f, P f → Q f) :
    Ends s res Q := by
  obtain ⟨ad, hP, hres⟩ := h
  exact ⟨ad, hPQ _ hP, hres⟩

end

/-! ### The attributes (R250) -/

theorem memAttrDefaults_device (u : Unknown) (k : DeviceType) : DeviceAttrs k (memAttrDefaults u (.device k)) :=
  ⟨rfl, rfl, rfl, rfl⟩

@[simp] theorem memAttrDefaults_normal_memtype (u : Unknown) (inner outer : MemAttrHints) (sh osh : Bool) :
    (memAttrDefaults u (.normal inner outer sh osh)).memtype = .normal := rfl

/-- Normal memory with the shareability of the SH bits (R107, R250). -/
theorem memAttrDefaults_normal (u : Unknown) (inner outer : MemAttrHints) (sh : BitVec 2) :
    NormalAttrs inner outer sh
      (memAttrDefaults u (.normal inner outer (shShareable sh) (shOutershareable sh))) := by
  refine ⟨rfl, rfl, rfl, fun ⟨hi, ho⟩ => ?_, fun hnc => ?_⟩
  · simp [memAttrDefaults, hi, ho]
  · have hnc' : (inner.attrs == .nc && outer.attrs == .nc) = false := by
      rw [Bool.eq_false_iff]
      simpa using hnc
    simp only [memAttrDefaults, hnc', Bool.false_or]
    exact ⟨rfl, rfl⟩

/-! ### The MAIR rows (R245 to R249) -/

/-- The row of each byte, by its nibbles: the 256 bytes one by one. -/
theorem decodeMair_rows : ∀ b : Byte,
    let hi := b.extractLsb' 4 4
    let lo := b.extractLsb' 0 4
    let d := b.extractLsb' 2 2
    (hi ≠ 0 → lo = 0 → decodeMair b = .mairReservedNormal hi) ∧
    (hi ≠ 0 → lo ≠ 0 → decodeMair b = .mairNormal hi lo) ∧
    (hi = 0 → b.extractLsb' 0 2 ≠ 0 → decodeMair b = .mairReservedDevice01 d ∨
      decodeMair b = .mairReservedDevice10 d ∨ decodeMair b = .mairReservedDevice11 d) ∧
    (hi = 0 → b.extractLsb' 0 2 = 0 → decodeMair b =
      if lo = 0b0000 then .mairDeviceNGnRnE else if lo = 0b0100 then .mairDeviceNGnRE
      else if lo = 0b1000 then .mairDeviceNGRE else .mairDeviceGRE) := by
  decide

/-- When the pseudocode takes a byte for a reserved encoding (R247). -/
theorem reservedGuard_iff (b : Byte) :
    ((b.extractLsb' 4 4 != 0 && b.extractLsb' 0 4 == 0) || (b.extractLsb' 4 4 == 0 && b.extractLsb' 0 2 != 0)) = true ↔
      (b.extractLsb' 4 4 ≠ 0 ∧ b.extractLsb' 0 4 = 0) ∨ (b.extractLsb' 4 4 = 0 ∧ b.extractLsb' 0 2 ≠ 0) := by
  simp only [Bool.or_eq_true, Bool.and_eq_true, bne_iff_ne, beq_iff_eq]

/-- The attributes that the row of the selected byte gives are those of `AArch64.S1AttrDecode` (R245 to R249). -/
theorem State.rowSpec_decodeMair (s : State) (sh : BitVec 2) (index : BitVec 3) (acctype : AccType) :
    memAttrDefaults (s.unknown .s1Attr) (s.rowSpec (decodeMair (s.mairByte index)) sh acctype) =
      s.s1AttrDecode (s.unknown .s1Attr) sh index acctype := by
  refine congrArg _ ?_
  generalize s.mairByte index = b
  obtain ⟨hReservedNormal, hNormal, hReservedDevice, hDevice⟩ := decodeMair_rows b
  by_cases hhi : b.extractLsb' 4 4 = 0
  · by_cases hlow : b.extractLsb' 0 2 = 0
    · rw [hDevice hhi hlow, if_neg (mt (reservedGuard_iff b).mp (by tauto)), if_pos hhi]
      split_ifs <;> rfl
    · rw [if_pos ((reservedGuard_iff b).mpr (.inr ⟨hhi, hlow⟩))]
      obtain h | h | h := hReservedDevice hhi hlow <;> rw [h] <;> rfl
  · by_cases hlo : b.extractLsb' 0 4 = 0
    · rw [hReservedNormal hhi hlo, if_pos ((reservedGuard_iff b).mpr (.inl ⟨hhi, hlo⟩))]
      rfl
    · rw [hNormal hhi hlo, if_neg (mt (reservedGuard_iff b).mp (by tauto)), if_neg hhi]
      rfl

/-- Settles O50: the row's attributes are those of the pseudocode in one piece. -/
theorem mairRowsAgreeWithAttrDecode : Obligations.MairRowsAgreeWithAttrDecode := by
  intro s req ip r sh index hp r' s'
  obtain ⟨hw, hm, -⟩ := decodeMair_spec (s.mairByte index)
  rw [step_of_attr hp, exec_mair_completes hp hm hw, State.rowSpec_decodeMair]
  rfl

end Sys2Proof.Machine
end

section
/-! PROOFS. The MAIR rows (R247 to R249): what each kind of row makes of the record of its walk, and the checks that
follow. -/

namespace Sys2Proof.Machine

/-! ### The rows that give allocated attributes -/

/-- One of the four Device rows (R248). -/
def IsDeviceRow (i : Instr) : Prop :=
  i = .mairDeviceNGnRnE ∨ i = .mairDeviceNGnRE ∨ i = .mairDeviceNGRE ∨ i = .mairDeviceGRE

/-- A reserved row (R247). -/
def IsReservedRow (i : Instr) : Prop :=
  (∃ d, i = .mairReservedDevice01 d ∨ i = .mairReservedDevice10 d ∨ i = .mairReservedDevice11 d) ∨
    ∃ o, o ≠ 0 ∧ i = .mairReservedNormal o

/-- The row of an allocated encoding: a nibble is the number plus one (R109). -/
def allocatedRow : MairAllocated → Instr
  | .device .nGnRnE => .mairDeviceNGnRnE
  | .device .nGnRE => .mairDeviceNGnRE
  | .device .nGRE => .mairDeviceNGRE
  | .device .gre => .mairDeviceGRE
  | .normal o n => .mairNormal (BitVec.ofNat 4 (o.val + 1)) (BitVec.ofNat 4 (n.val + 1))

theorem nibble_ne_zero : ∀ o : Fin 15, BitVec.ofNat 4 (o.val + 1) ≠ 0 := by decide

theorem allocatedRow_isMair (m : MairAllocated) : (allocatedRow m).isMair = true ∧ (allocatedRow m).wf = true := by
  cases m with
  | device k => cases k <;> exact ⟨rfl, rfl⟩
  | normal o n => exact ⟨rfl, by simp only [allocatedRow, Instr.wf, bne_iff_ne.mpr (nibble_ne_zero _), Bool.and_self]⟩

theorem State.rowSpec_allocatedRow (s : State) (m : MairAllocated) :
    s.rowSpec (allocatedRow m) = s.allocatedSpec m := by
  cases m with
  | device k => cases k <;> rfl
  | normal o n => rfl

theorem IsReservedRow.isMair {i : Instr} (h : IsReservedRow i) (s : State) :
    i.isMair = true ∧ i.wf = true ∧ s.rowSpec i = s.reservedSpec (s.unknown .s1Attr) := by
  obtain ⟨d, rfl | rfl | rfl⟩ | ⟨o, ho, rfl⟩ := h
  · exact ⟨rfl, rfl, rfl⟩
  · exact ⟨rfl, rfl, rfl⟩
  · exact ⟨rfl, rfl, rfl⟩
  · exact ⟨rfl, bne_iff_ne.mpr ho, rfl⟩

/-- A reserved row acts as the row of the encoding that the implementation maps it to (R247, D4). -/
theorem exec_reserved {i : Instr} (h : IsReservedRow i) (s : State) :
    exec i s = exec (allocatedRow (choose s.cfg.cuMairBits (s.unknown .s1Attr).mair)) s := by
  obtain ⟨hm, hw, hspec⟩ := h.isMair s
  obtain ⟨hm', hw'⟩ := allocatedRow_isMair (choose s.cfg.cuMairBits (s.unknown .s1Attr).mair)
  rw [exec_mair hm hw, exec_mair hm' hw', hspec, State.rowSpec_allocatedRow]
  rfl

theorem exec_reserved_of_fixed {i : Instr} (h : IsReservedRow i) {s : State} {m : MairAllocated}
    (hc : s.cfg.cuMairBits = .fixed m) : exec i s = exec (allocatedRow m) s := by
  rw [exec_reserved h, hc, choose_fixed]

theorem allocatedRow_cases (m : MairAllocated) :
    IsDeviceRow (allocatedRow m) ∨ ∃ o n : BitVec 4, o ≠ 0 ∧ n ≠ 0 ∧ allocatedRow m = .mairNormal o n := by
  cases m with
  | device k =>
    refine .inl ?_
    cases k with
    | nGnRnE => exact .inl rfl
    | nGnRE => exact .inr (.inl rfl)
    | nGRE => exact .inr (.inr (.inl rfl))
    | gre => exact .inr (.inr (.inr rfl))
  | normal o n => exact .inr ⟨_, _, nibble_ne_zero o, nibble_ne_zero n, rfl⟩

/-- Settles O53: a reserved row is the row of the choice, whether it is fixed or drawn. -/
theorem reservedMairRowsActAsAllocated : Obligations.ReservedMairRowsActAsAllocated := by
  intro s i h
  refine ⟨fun o n => exec_reserved_of_fixed h, exec_reserved_of_fixed h, exec_reserved_of_fixed h,
    exec_reserved_of_fixed h, exec_reserved_of_fixed h, _, ?_, exec_reserved h s⟩
  obtain (h | h | h | h) | h := allocatedRow_cases (choose s.cfg.cuMairBits (s.unknown .s1Attr).mair)
  · exact .inl h
  · exact .inr (.inl h)
  · exact .inr (.inr (.inl h))
  · exact .inr (.inr (.inr (.inl h)))
  · exact .inr (.inr (.inr (.inr h)))

/-! ### What each kind of row makes of the record -/

section
variable {s : State} {req : Request} {ip : PAddr} {r : TLBRecord} {sh : BitVec 2} {index : BitVec 3} {i : Instr}

theorem exec_deviceRow_completes {k : DeviceType} (hp : s.phase = .attr req ip r sh index)
    (hi : i = allocatedRow (.device k)) :
    ∃ m, DeviceAttrs k m ∧ exec i s = s.completeStage1 req (r.withAttrs m) ip true := by
  obtain ⟨hm, hw⟩ := allocatedRow_isMair (.device k)
  subst hi
  rw [exec_mair_completes hp hm hw, State.rowSpec_allocatedRow]
  exact ⟨_, memAttrDefaults_device _ k, rfl⟩

theorem exec_normalRow_completes {o n : BitVec 4} (hp : s.phase = .attr req ip r sh index) (ho : o ≠ 0) (hn : n ≠ 0) :
    ∃ m, NormalAttrs (s.longConvertAttrsHints n req.acctype) (s.longConvertAttrsHints o req.acctype) sh m ∧
      exec (.mairNormal o n) s = s.completeStage1 req (r.withAttrs m) ip true := by
  have hw : (Instr.mairNormal o n).wf = true := by
    simp only [Instr.wf, bne_iff_ne.mpr ho, bne_iff_ne.mpr hn, Bool.and_self]
  rw [exec_mair_completes hp rfl hw]
  exact ⟨_, memAttrDefaults_normal _ _ _ sh, rfl⟩

/-- A permitted access that is no fetch from Device memory completes stage 1 with the row's attributes. -/
theorem State.completeStage1_permitted {m : MemoryAttributes} (hf : r.addrdesc.isFault = false)
    (hm : ¬misalignedDevice req m) (hfetch : ¬(req.acctype = .ifetch ∧ m.memtype = .device))
    (hpass : s.s1Fails r.perms r.addrdesc.paddress.ns req.acctype req.iswrite = false) :
    Stage1Succeeds s req r.addrdesc.paddress (· = m) (s.completeStage1 req (r.withAttrs m) ip true) := by
  have hchecks := State.stage1Checks_of_passes (s.record (r.withAttrs m)) (r := r.withAttrs m) (check := true) ip hf hm
    (fun _ => hpass) hfetch
  exact State.completeStage1_of_ok (r := r.withAttrs m) hchecks (checkedDescriptor_isFault _ true hf) rfl

theorem exec_deviceRow_succeeds {k : DeviceType} (hp : s.phase = .attr req ip r sh index)
    (hf : r.addrdesc.isFault = false) (ha : req.wasaligned = true) (hi : req.acctype ≠ .ifetch)
    (hpass : s.s1Fails r.perms r.addrdesc.paddress.ns req.acctype req.iswrite = false) :
    Stage1Succeeds s req r.addrdesc.paddress (DeviceAttrs k) (exec (allocatedRow (.device k)) s) := by
  obtain ⟨m, hm, hexec⟩ := exec_deviceRow_completes (k := k) hp rfl
  rw [hexec]
  refine (State.completeStage1_permitted hf (not_misalignedDevice_of_aligned ha) (fun h => hi h.1) hpass).mono ?_
  rintro _ rfl
  exact hm

theorem exec_normalRow_succeeds {o n : BitVec 4} (hp : s.phase = .attr req ip r sh index)
    (hf : r.addrdesc.isFault = false) (ho : o ≠ 0) (hn : n ≠ 0)
    (hpass : s.s1Fails r.perms r.addrdesc.paddress.ns req.acctype req.iswrite = false) :
    Stage1Succeeds s req r.addrdesc.paddress
      (NormalAttrs (s.longConvertAttrsHints n req.acctype) (s.longConvertAttrsHints o req.acctype) sh)
      (exec (.mairNormal o n) s) := by
  obtain ⟨m, hm, hexec⟩ := exec_normalRow_completes hp ho hn
  have hnormal : m.memtype = .normal := hm.1
  rw [hexec]
  refine (State.completeStage1_permitted hf (not_misalignedDevice_of_normal hnormal) (fun h => ?_) hpass).mono ?_
  · exact nomatch h.2.symm.trans hnormal
  · rintro _ rfl
    exact hm

end

/-- Settles O51: each row is the allocated row of its Device type. -/
theorem deviceMairRowsComplete : Obligations.DeviceMairRowsComplete := by
  intro s req ip r sh index hp hf ha hi hpass
  have hrow (k : DeviceType) := exec_deviceRow_succeeds (k := k) hp hf ha hi hpass
  exact ⟨hrow .nGnRnE, hrow .nGnRE, hrow .nGRE, hrow .gre⟩

/-- Settles O52: Normal memory passes the alignment and the fetch check whatever the access. -/
theorem normalMairRowCompletes : Obligations.NormalMairRowCompletes := by
  intro s req ip r sh index o n hp hf ho hn hpass
  exact exec_normalRow_succeeds hp hf ho hn hpass

/-- Settles O54: the choice is a Device row or a Normal row, and either completes. -/
theorem reservedMairRowsComplete : Obligations.ReservedMairRowsComplete := by
  intro s req ip r sh index i hp hf ha hi hpass hrow
  rw [exec_reserved hrow]
  cases choose s.cfg.cuMairBits (s.unknown .s1Attr).mair with
  | device k => exact (exec_deviceRow_succeeds hp hf ha hi hpass).mono fun m hm => .inl ⟨k, hm⟩
  | normal o n =>
    exact (exec_normalRow_succeeds hp hf (nibble_ne_zero o) (nibble_ne_zero n) hpass).mono fun m hm =>
      .inr ⟨_, _, nibble_ne_zero o, nibble_ne_zero n, hm⟩

/-! ### Permission (R137, R256, R257) -/

section
variable {s : State} {req : Request} {ip : PAddr} {r : TLBRecord} {sh : BitVec 2} {index : BitVec 3} {i : Instr}

/-- The fault of an access that stage 1 forbids, at the walk's level. -/
def permissionFault (req : Request) (r : TLBRecord) (f : FaultRecord) : Prop :=
  f.kind = .permission ∧ f.level = r.level ∧ f.acctype = req.acctype ∧
    f.write = (req.iswrite && req.acctype != .ifetch) ∧ f.secondstage = false ∧ f.s2fs1walk = false

theorem State.completeStage1_forbidden {m : MemoryAttributes} (hf : r.addrdesc.isFault = false)
    (hm : ¬misalignedDevice req m)
    (hfail : s.s1Fails r.perms r.addrdesc.paddress.ns req.acctype req.iswrite = true) :
    EndsRecorded s (s.completeStage1 req (r.withAttrs m) ip true) (permissionFault req r) := by
  refine (State.completeStage1_of_fault
    (State.stage1Checks_of_forbidden (s.record _) (r := r.withAttrs m) ip hf hm hfail) rfl).mono ?_
  rintro _ rfl
  exact ⟨rfl, rfl, rfl, rfl, rfl, rfl⟩

/-- The Alignment fault of stage 1 (R136). -/
def s1AlignmentFault (req : Request) (f : FaultRecord) : Prop :=
  f.kind = .alignment ∧ f.acctype = req.acctype ∧ f.write = req.iswrite ∧ f.secondstage = false

theorem State.completeStage1_misaligned {check : Bool} (hf : r.addrdesc.isFault = false)
    (hm : misalignedDevice req r.addrdesc.memattrs) :
    EndsRecorded s (s.completeStage1 req r ip check) (s1AlignmentFault req) := by
  obtain ⟨ha, hi, hd⟩ := hm
  refine (State.completeStage1_of_fault
    (State.stage1Checks_of_misaligned_device (s.record r) ip check ha hi hf hd) rfl).mono ?_
  rintro _ rfl
  exact ⟨rfl, rfl, rfl, rfl⟩

theorem exec_allocatedRow_forbidden {a : MairAllocated} (hp : s.phase = .attr req ip r sh index)
    (hf : r.addrdesc.isFault = false)
    (hfail : s.s1Fails r.perms r.addrdesc.paddress.ns req.acctype req.iswrite = true)
    (ha : req.wasaligned = true ∨ req.acctype = .ifetch ∨ ∃ o n, a = .normal o n) :
    EndsRecorded s (exec (allocatedRow a) s) (permissionFault req r) := by
  have haccess (m : MemoryAttributes) (h : req.wasaligned = true ∨ req.acctype = .ifetch ∨ m.memtype = .normal) :
      ¬misalignedDevice req m := by
    obtain h | h | h := h
    · exact not_misalignedDevice_of_aligned h
    · exact not_misalignedDevice_of_ifetch h
    · exact not_misalignedDevice_of_normal h
  cases a with
  | device k =>
    obtain ⟨m, -, hexec⟩ := exec_deviceRow_completes (k := k) hp rfl
    rw [hexec]
    refine State.completeStage1_forbidden hf (haccess m ?_) hfail
    obtain h | h | ⟨o, n, h⟩ := ha
    · exact .inl h
    · exact .inr (.inl h)
    · cases h
  | normal o n =>
    obtain ⟨m, hm, hexec⟩ := exec_normalRow_completes hp (nibble_ne_zero o) (nibble_ne_zero n)
    have hrow : exec (allocatedRow (.normal o n)) s = _ := hexec
    rw [hrow]
    exact State.completeStage1_forbidden hf (haccess m (.inr (.inr hm.1))) hfail

/-- Unaligned data behind an allocated row: an Alignment fault in Device memory, else the Permission fault. -/
theorem exec_allocatedRow_forbidden_misaligned (a : MairAllocated) (hp : s.phase = .attr req ip r sh index)
    (hf : r.addrdesc.isFault = false)
    (hfail : s.s1Fails r.perms r.addrdesc.paddress.ns req.acctype req.iswrite = true)
    (ha : req.wasaligned = false) (hi : req.acctype ≠ .ifetch) :
    EndsRecorded s (exec (allocatedRow a) s) (fun f => permissionFault req r f ∨ s1AlignmentFault req f) := by
  cases a with
  | device k =>
    obtain ⟨m, hm, hexec⟩ := exec_deviceRow_completes (k := k) hp rfl
    have hmis : misalignedDevice req (r.withAttrs m).addrdesc.memattrs := ⟨ha, hi, hm.1⟩
    rw [hexec]
    exact (State.completeStage1_misaligned (r := r.withAttrs m) hf hmis).mono fun _ => .inr
  | normal o n =>
    exact (exec_allocatedRow_forbidden hp hf hfail (.inr (.inr ⟨o, n, rfl⟩))).mono fun _ => .inl

/-- A well-formed MAIR row is allocated or reserved. -/
theorem mairRow_cases (hm : i.isMair = true) (hw : i.wf = true) :
    IsDeviceRow i ∨ IsReservedRow i ∨ ∃ o n, o ≠ 0 ∧ n ≠ 0 ∧ i = .mairNormal o n := by
  cases i with
  | descInvalid | descReservedL3 | descBlockNotAllowed | descTableS1El10 | descTableS1El2El3 | descTableS2
  | descBlockS1 | descPageS1 | descBlockS2 | descPageS2 => cases hm
  | mairDeviceNGnRnE => exact .inl (.inl rfl)
  | mairDeviceNGnRE => exact .inl (.inr (.inl rfl))
  | mairDeviceNGRE => exact .inl (.inr (.inr (.inl rfl)))
  | mairDeviceGRE => exact .inl (.inr (.inr (.inr rfl)))
  | mairReservedDevice01 d => exact .inr (.inl (.inl ⟨d, .inl rfl⟩))
  | mairReservedDevice10 d => exact .inr (.inl (.inl ⟨d, .inr (.inl rfl)⟩))
  | mairReservedDevice11 d => exact .inr (.inl (.inl ⟨d, .inr (.inr rfl)⟩))
  | mairReservedNormal o => exact .inr (.inl (.inr ⟨o, bne_iff_ne.mp hw, rfl⟩))
  | mairNormal o n =>
    simp only [Instr.wf, Bool.and_eq_true, bne_iff_ne] at hw
    exact .inr (.inr ⟨o, n, hw.1, hw.2, rfl⟩)

theorem deviceRow_eq_allocatedRow (h : IsDeviceRow i) : ∃ k, i = allocatedRow (.device k) := by
  obtain rfl | rfl | rfl | rfl := h
  · exact ⟨.nGnRnE, rfl⟩
  · exact ⟨.nGnRE, rfl⟩
  · exact ⟨.nGRE, rfl⟩
  · exact ⟨.gre, rfl⟩

/-- The row of a Normal encoding is the allocated row of its nibbles. -/
theorem mairNormal_eq_allocatedRow : ∀ o n : BitVec 4, o ≠ 0 → n ≠ 0 →
    ∃ o' n', Instr.mairNormal o n = allocatedRow (.normal o' n') := by
  have hnibble : ∀ o : BitVec 4, o ≠ 0 → ∃ o' : Fin 15, BitVec.ofNat 4 (o'.val + 1) = o := by decide
  intro o n ho hn
  obtain ⟨o', rfl⟩ := hnibble o ho
  obtain ⟨n', rfl⟩ := hnibble n hn
  exact ⟨o', n', rfl⟩

/-- Every well-formed MAIR row acts as an allocated one: its own, or the choice's. -/
theorem exec_mair_allocated (hm : i.isMair = true) (hw : i.wf = true) (s : State) :
    ∃ a, exec i s = exec (allocatedRow a) s ∧ (∀ o n, i = .mairNormal o n → ∃ o' n', a = .normal o' n') ∧
      (IsReservedRow i → ∀ o n, s.cfg.cuMairBits = .fixed (.normal o n) → a = .normal o n) := by
  obtain h | h | ⟨o, n, ho, hn, rfl⟩ := mairRow_cases hm hw
  · obtain ⟨k, rfl⟩ := deviceRow_eq_allocatedRow h
    refine ⟨.device k, rfl, fun o n hi => ?_, fun hi => ?_⟩
    · cases k <;> cases hi
    · obtain ⟨d, hi | hi | hi⟩ | ⟨o, -, hi⟩ := hi <;> cases k <;> cases hi
  · refine ⟨_, exec_reserved h s, fun o n hi => ?_, fun _ o n hc => by rw [hc, choose_fixed]⟩
    subst hi
    obtain ⟨d, hi | hi | hi⟩ | ⟨o, -, hi⟩ := h <;> cases hi
  · obtain ⟨o', n', ha⟩ := mairNormal_eq_allocatedRow o n ho hn
    refine ⟨_, by rw [ha], fun _ _ _ => ⟨o', n', rfl⟩, fun hi => ?_⟩
    obtain ⟨d, hi | hi | hi⟩ | ⟨o, -, hi⟩ := hi <;> cases hi

end

/-- Settles O56: the alignment check comes before the permission check, and concerns Device memory only. -/
theorem stageOnePermissionFault : Obligations.StageOnePermissionFault := by
  intro s req ip r sh index i hp hf hm hw hfail P reserved
  obtain ⟨a, hexec, hnormal, hfixed⟩ := exec_mair_allocated hm hw s
  have hreserved (h : reserved) : IsReservedRow i := by
    refine h.imp_right fun ⟨o, hi⟩ => ⟨o, ?_, hi⟩
    subst hi
    exact bne_iff_ne.mp hw
  rw [hexec]
  refine ⟨fun h => exec_allocatedRow_forbidden hp hf hfail ?_, fun ha hi _ =>
    exec_allocatedRow_forbidden_misaligned a hp hf hfail ha hi⟩
  obtain h | h | ⟨o, n, h⟩ | ⟨hr, o, n, hc⟩ := h
  · exact .inl h
  · exact .inr (.inl h)
  · exact .inr (.inr (hnormal o n h))
  · exact .inr (.inr ⟨o, n, hfixed (hreserved hr) o n hc⟩)

end Sys2Proof.Machine
end

section
/-! PROOFS. Stage 1 permissions (R257), the fetch from Device memory (R138, R274) and the cacheability tables (R108 to
R110, R276, R277). -/

namespace Sys2Proof.Machine

/-! ### The permission table (R257) -/

theorem userWrite_eq : ∀ ap : BitVec 3, (ap.extractLsb' 1 2 == 0b01) = (ap.getLsbD 1 && !ap.getLsbD 2) := by decide

/-! When a fetch is forbidden, in each kind of regime. -/

section
variable (p : Permissions) (wxn : Bool)

theorem userRights_xn : (userRights p wxn).xn = (p.xn || (wxn && p.ap.getLsbD 1 && !p.ap.getLsbD 2)) := by
  simp only [userRights, userWrite_eq]
  rw [Bool.and_comm _ wxn, Bool.and_assoc]

theorem privRights_xn :
    (privRights p wxn).xn = (p.pxn || (wxn && !p.ap.getLsbD 2) || (p.ap.getLsbD 1 && !p.ap.getLsbD 2)) := by
  simp only [privRights, userWrite_eq, Bool.and_comm wxn]

theorem singleRights_xn : (singleRights p wxn).xn = (p.xn || (wxn && !p.ap.getLsbD 2)) := by
  simp only [singleRights, Bool.and_comm wxn]

end

section
variable (s : State) (p : Permissions) (ns : Bool)

theorem State.s1Fails_write {acctype : AccType} (hi : acctype ≠ .ifetch) :
    s.s1Fails p ns acctype true = !(s.s1Rights p acctype).w := by
  simp only [State.s1Fails, if_neg hi, if_true]

theorem State.s1Fails_read {acctype : AccType} (hi : acctype ≠ .ifetch) :
    s.s1Fails p ns acctype false = !(s.s1Rights p acctype).r := by
  simp only [State.s1Fails, if_neg hi, Bool.false_eq_true, if_false]

theorem State.s1Fails_fetch (iswrite : Bool) :
    s.s1Fails p ns .ifetch iswrite = ((s.s1Rights p .ifetch).xn || s.secureFetchForbidden ns) := by
  simp only [State.s1Fails, if_true]

theorem State.s1Rights_unprivileged {acctype : AccType} (h : s.el = .el0 ∨ (s.el = .el1 ∧ acctype = .unpriv)) :
    s.s1Rights p acctype = userRights p s.sctlr.wxn := by
  obtain h | ⟨h, rfl⟩ := h <;> simp [State.s1Rights, h]

/-- Privileged data: everything is readable, and AP[2] forbids writes. -/
theorem State.s1Rights_privileged {acctype : AccType} (h : ¬(s.el = .el0 ∨ (s.el = .el1 ∧ acctype = .unpriv))) :
    (s.s1Rights p acctype).r = true ∧ (s.s1Rights p acctype).w = !p.ap.getLsbD 2 := by
  cases hel : s.el with
  | el0 => exact absurd (.inl hel) h
  | el1 =>
    have hu : acctype ≠ .unpriv := fun hu => h (.inr ⟨hel, hu⟩)
    simp [State.s1Rights, hel, hu, privRights]
  | el2 | el3 => simp [State.s1Rights, hel, singleRights]

theorem State.secureFetchForbidden_iff :
    s.secureFetchForbidden ns = true ↔
      s.cfg.haveEl3 = true ∧ s.isSecure = true ∧ ns = true ∧ s.regs.scrEl3.sif = true := by
  simp only [State.secureFetchForbidden, Bool.and_eq_true, and_assoc]

end

/-- Settles O57: data by privilege, then a fetch by its Secure rule and the execute-never bit of each level. -/
theorem stageOnePermissionTable : Obligations.StageOnePermissionTable := by
  intro s p ns acctype iswrite fails ro el0 wxn unprivileged secureFetch
  refine ⟨fun hi hw hu => ?_, fun hi hw hu => ?_, fun hi hw hu => ?_, fun hi hw hu => ?_, fun hi hs => ?_,
    fun hi hs => ?_⟩
  · subst hw
    refine (s.s1Fails_write p ns hi).trans ?_
    rw [s.s1Rights_unprivileged p hu]
    simp only [userRights, userWrite_eq, Bool.not_and, Bool.not_not]
    exact Bool.or_comm _ _
  · subst hw
    refine (s.s1Fails_read p ns hi).trans ?_
    rw [s.s1Rights_unprivileged p hu]
    rfl
  · subst hw
    refine (s.s1Fails_write p ns hi).trans ?_
    rw [(s.s1Rights_privileged p hu).2, Bool.not_not]
  · subst hw
    refine (s.s1Fails_read p ns hi).trans ?_
    rw [(s.s1Rights_privileged p hu).1, Bool.not_true]
  · subst hi
    refine (s.s1Fails_fetch p ns iswrite).trans ?_
    rw [(s.secureFetchForbidden_iff ns).mpr hs, Bool.or_true]
  · subst hi
    have hfetch : fails = (s.s1Rights p .ifetch).xn := by
      refine (s.s1Fails_fetch p ns iswrite).trans ?_
      rw [Bool.eq_false_iff.mpr (mt (s.secureFetchForbidden_iff ns).mp hs), Bool.or_false]
    rw [hfetch]
    refine ⟨fun hel => ?_, fun hel => ?_, fun hel => ?_⟩
    · rw [s.s1Rights_unprivileged p (.inl hel), userRights_xn]
    · simp only [State.s1Rights, hel, reduceCtorEq, if_false]
      exact privRights_xn p _
    · obtain hel | hel := hel
      · simp only [State.s1Rights, hel]
        exact singleRights_xn p _
      · simp only [State.s1Rights, hel]
        exact singleRights_xn p _

/-! ### A fetch from Device memory (R138, R274) -/

section
variable {s : State} {u : Unknown} {ad : AddressDescriptor} {ip : PAddr} {level : Int} {acctype : AccType}
  {iswrite secondstage s2fs1walk : Bool}

theorem State.instructionDevice_of_fault (h : choose s.cfg.cuInstrDevice u.fetch = .fault) :
    s.instructionDevice u ad ip level acctype iswrite secondstage s2fs1walk =
      { ad with fault := faultRecord .permission ip level acctype iswrite secondstage s2fs1walk } := by
  simp only [State.instructionDevice, h]

/-- Normal Non-cacheable attributes (R274). -/
def NonCacheable (m : MemoryAttributes) : Prop :=
  m.memtype = .normal ∧ m.inner.attrs = .nc ∧ m.inner.hints = .no ∧ m.outer = m.inner ∧ m.shareable = true ∧
    m.outershareable = true

theorem State.instructionDevice_of_none (h : choose s.cfg.cuInstrDevice u.fetch = .none) :
    ∃ m, NonCacheable m ∧
      s.instructionDevice u ad ip level acctype iswrite secondstage s2fs1walk = { ad with memattrs := m } := by
  simp only [State.instructionDevice, h]
  exact ⟨_, ⟨rfl, rfl, rfl, rfl, rfl, rfl⟩, rfl⟩

end

section
variable {s : State} {req : Request} {ip : PAddr} {r : TLBRecord} {m : MemoryAttributes}

/-- A permitted fetch from Device memory, with the choice to fault. -/
theorem State.completeStage1_fetchFaults (hf : r.addrdesc.isFault = false) (hi : req.acctype = .ifetch)
    (hd : m.memtype = .device) (hpass : s.s1Fails r.perms r.addrdesc.paddress.ns req.acctype req.iswrite = false)
    (hc : choose s.cfg.cuInstrDevice (s.unknown .instrDeviceS1).fetch = .fault) :
    EndsRecorded s (s.completeStage1 req (r.withAttrs m) ip true) (fun f =>
      f = { kind := .permission, ipaddress := ip, level := r.level, acctype := .ifetch, write := req.iswrite,
            secondstage := false, s2fs1walk := false }) := by
  have hchecks := State.stage1Checks_of_permitted (s.record (r.withAttrs m)) (r := r.withAttrs m) (check := true) ip hf
    (not_misalignedDevice_of_ifetch hi) (fun _ => hpass)
  simp only [TLBRecord.withAttrs_memattrs, hi, hd, and_self, if_true] at hchecks
  have hfault := hchecks.trans (State.instructionDevice_of_fault (s := s.record (r.withAttrs m)) hc)
  refine (State.completeStage1_of_fault hfault rfl).mono ?_
  rintro _ rfl
  rfl

/-- A permitted fetch from Device memory, with the choice to make it Normal Non-cacheable. -/
theorem State.completeStage1_fetches (hf : r.addrdesc.isFault = false) (hi : req.acctype = .ifetch)
    (hd : m.memtype = .device) (hpass : s.s1Fails r.perms r.addrdesc.paddress.ns req.acctype req.iswrite = false)
    (hc : choose s.cfg.cuInstrDevice (s.unknown .instrDeviceS1).fetch = .none) :
    Stage1Succeeds s req r.addrdesc.paddress NonCacheable (s.completeStage1 req (r.withAttrs m) ip true) := by
  have hchecks := State.stage1Checks_of_permitted (s.record (r.withAttrs m)) (r := r.withAttrs m) (check := true) ip hf
    (not_misalignedDevice_of_ifetch hi) (fun _ => hpass)
  simp only [TLBRecord.withAttrs_memattrs, hi, hd, and_self, if_true] at hchecks
  obtain ⟨m', hm', hnone⟩ := State.instructionDevice_of_none (s := s.record (r.withAttrs m)) hc
    (ad := checkedDescriptor ((s.record (r.withAttrs m)).unknown .checkPermission) (r.withAttrs m).addrdesc true)
    (ip := ip) (level := r.level) (acctype := .ifetch) (iswrite := req.iswrite) (secondstage := false)
    (s2fs1walk := false)
  exact State.completeStage1_of_ok (r := r.withAttrs m) (hchecks.trans hnone) rfl hm'

end

/-- Settles O58: the row gives Device memory, and the choice decides what the fetch check makes of it. -/
theorem fetchFromDeviceIsTheChoice : Obligations.FetchFromDeviceIsTheChoice := by
  intro s req ip r sh index i hp hf hi hpass hrow faults fetches
  obtain ⟨k, hk⟩ := deviceRow_eq_allocatedRow hrow
  obtain ⟨m, hm, hexec⟩ := exec_deviceRow_completes hp hk
  have hfaults (hc : choose s.cfg.cuInstrDevice (s.unknown .instrDeviceS1).fetch = .fault) : faults := by
    simp only [faults, hexec]
    exact State.completeStage1_fetchFaults hf hi hm.1 hpass hc
  have hfetches (hc : choose s.cfg.cuInstrDevice (s.unknown .instrDeviceS1).fetch = .none) : fetches := by
    simp only [fetches, hexec]
    exact State.completeStage1_fetches hf hi hm.1 hpass hc
  refine ⟨fun hc => hfaults (by rw [hc, choose_fixed]), fun hc => hfetches (by rw [hc, choose_fixed]), ?_⟩
  cases hc : choose s.cfg.cuInstrDevice (s.unknown .instrDeviceS1).fetch with
  | fault => exact .inl (hfaults hc)
  | none => exact .inr (hfetches hc)

/-! ### The cacheability tables -/

section
variable {s : State} {acctype : AccType}

/-- The Device type of each MemAttr[3:2] = '00' encoding (R110). -/
theorem s2Device_low : ∀ memAttr : BitVec 4, memAttr.extractLsb' 2 2 = 0 →
    (memAttr.extractLsb' 0 2 = 0b00 ↔ memAttr = 0b0000) ∧ (memAttr.extractLsb' 0 2 = 0b01 ↔ memAttr = 0b0001) ∧
      (memAttr.extractLsb' 0 2 = 0b10 ↔ memAttr = 0b0010) := by
  decide

theorem State.s2AttrDecode_of_device (u : Unknown) (sh : BitVec 2) {memAttr : BitVec 4} (h : s2Device memAttr) :
    DeviceAttrs
      (if memAttr = 0b0000 then .nGnRnE else if memAttr = 0b0001 then .nGnRE
        else if memAttr = 0b0010 then .nGRE else .gre) (s.s2AttrDecode u sh memAttr acctype) := by
  have hhi : memAttr.extractLsb' 2 2 = 0 := h
  obtain ⟨h0, h1, h2⟩ := s2Device_low memAttr hhi
  simp only [State.s2AttrDecode, if_pos hhi, h0, h1, h2]
  split_ifs <;> exact memAttrDefaults_device u _

theorem State.s2AttrDecode_of_normal (u : Unknown) (sh : BitVec 2) {memAttr : BitVec 4} (h : s2Normal memAttr) :
    NormalAttrs (s.s2ConvertAttrsHints (memAttr.extractLsb' 0 2) acctype)
      (s.s2ConvertAttrsHints (memAttr.extractLsb' 2 2) acctype) sh (s.s2AttrDecode u sh memAttr acctype) := by
  obtain ⟨hhi, hlo⟩ := h
  simp only [State.s2AttrDecode, if_neg hhi, if_pos hlo]
  exact memAttrDefaults_normal u _ _ sh

theorem State.s2ConvertAttrsHints_of_disabled (h : s.s2CacheDisabled acctype = true) (a : BitVec 2) :
    s.s2ConvertAttrsHints a acctype = ⟨.nc, .no, false⟩ := by
  simp only [State.s2ConvertAttrsHints, h, Bool.or_true, if_true]
  rfl

theorem State.s2ConvertAttrsHints_of_enabled (h : s.s2CacheDisabled acctype = false) (a : BitVec 2) :
    s.s2ConvertAttrsHints a acctype =
      if a = 0b01 then ⟨.nc, .no, false⟩ else if a = 0b10 then ⟨.wt, .rwa, false⟩ else ⟨.wb, .rwa, false⟩ := by
  simp only [State.s2ConvertAttrsHints, h, Bool.or_false, decide_eq_true_eq]
  rfl

theorem State.convertAttrsHints_of_disabled (h : s.s1CacheDisabled acctype = true) :
    (∀ rgn, s.shortConvertAttrsHints rgn acctype = ⟨.nc, .no, false⟩) ∧
      ∀ a, s.longConvertAttrsHints a acctype = ⟨.nc, .no, false⟩ :=
  ⟨fun _ => if_pos h, fun _ => if_pos h⟩

end

/-- Settles O59: each table value by value, and the attributes it stands for. -/
theorem cacheabilityTables : Obligations.CacheabilityTables := by
  intro s acctype
  refine ⟨fun hi => ?_, fun hi => ?_, fun u sh orgn irgn => memAttrDefaults_normal u _ _ sh,
    State.convertAttrsHints_of_disabled, fun hon => ?_, fun u sh memAttr =>
    ⟨s.s2AttrDecode_of_device u sh, fun hn hon => ?_, fun hn hoff => ?_⟩⟩
  · exact ⟨if_pos hi, if_pos hi⟩
  · exact ⟨if_neg hi, if_neg hi⟩
  · simp only [State.shortConvertAttrsHints, State.longConvertAttrsHints, hon]
    exact ⟨rfl, rfl, rfl⟩
  · simp only [← State.s2ConvertAttrsHints_of_enabled hon]
    exact s.s2AttrDecode_of_normal u sh hn
  · have hnormal := s.s2AttrDecode_of_normal (acctype := acctype) u sh hn
    rwa [State.s2ConvertAttrsHints_of_disabled hoff, State.s2ConvertAttrsHints_of_disabled hoff] at hnormal

end Sys2Proof.Machine
end

section
/-! PROOFS. What takes a request (R120, R121, R131 to R135): the registers of the regime, the first descriptor of a
stage 1 walk, the flat map, the setup of a stage 2 walk, and what is refused with AArch32 in use. -/

namespace Sys2Proof.Machine

/-! ### The registers of the regime (R183, R184) -/

section
variable {s : State} {va : Word}

theorem State.paramsStage1_of_el10 (h : s.el = .el0 ∨ s.el = .el1) :
    s.paramsStage1 va = if va.getLsbD (s.addrTop va) then s.paramsUpper else s.paramsLower := by
  obtain h | h := h <;> simp only [State.paramsStage1, h]

theorem State.addrTop_of_el10 (h : s.el = .el0 ∨ s.el = .el1) :
    s.addrTop va = if (if va.getLsbD 55 then s.regs.tcrEl1.tbi1 else s.regs.tcrEl1.tbi0) then 55 else 63 := by
  obtain h | h := h <;> simp only [State.addrTop, h]

theorem State.mair_of_el10 (h : s.el = .el0 ∨ s.el = .el1) : s.mair = s.regs.mairEl1 := by
  obtain h | h := h <;> simp only [State.mair, h]

end

/-- Settles O23: one regime at a time; in the EL1&0 regime the range bit selects the parameters. -/
theorem regimeSelectsItsRegisters : Obligations.RegimeSelectsItsRegisters := by
  intro s va p
  refine ⟨fun h => ?_, fun h => ?_, fun h => ?_, fun h => ?_, fun h => ?_, fun h => ?_⟩
  · exact ⟨State.sctlr_of_el3 h, by simp only [State.mair, h], by simp only [State.addrTop, h]⟩
  · exact ⟨State.sctlr_of_el2 h, by simp only [State.mair, h], by simp only [State.addrTop, h]⟩
  · refine ⟨State.sctlr_of_el10 h, State.mair_of_el10 h, fun hb => ?_, fun hb => ?_⟩
    · rw [State.addrTop_of_el10 h, hb, if_pos rfl]
    · rw [State.addrTop_of_el10 h, hb, if_neg Bool.false_ne_true]
  · have hparams : p = s.paramsEl3 := by simp only [p, State.paramsStage1, h]
    rw [hparams]
    exact ⟨rfl, rfl, rfl, rfl, rfl, rfl, rfl, rfl, rfl, rfl, rfl, rfl⟩
  · have hparams : p = s.paramsEl2 := by simp only [p, State.paramsStage1, h]
    rw [hparams]
    exact ⟨rfl, rfl, rfl, rfl, rfl, rfl, rfl, rfl, rfl, rfl, rfl, rfl⟩
  · have hparams : p = if va.getLsbD (s.addrTop va) then s.paramsUpper else s.paramsLower :=
      State.paramsStage1_of_el10 h
    cases hb : va.getLsbD (s.addrTop va) with
    | false =>
      rw [hb, if_neg Bool.false_ne_true] at hparams
      rw [hparams]
      exact ⟨rfl, rfl, rfl, rfl, fun _ => ⟨rfl, rfl, rfl, rfl, rfl, rfl, rfl, rfl⟩, (nomatch ·)⟩
    | true =>
      rw [hb, if_pos rfl] at hparams
      rw [hparams]
      exact ⟨rfl, rfl, rfl, rfl, (nomatch ·), fun _ => ⟨rfl, rfl, rfl, rfl, rfl, rfl, rfl, rfl⟩⟩

/-! ### A request is taken (R120, R121) -/

section
variable {s : State} {req : Request} {rest : List Request}

theorem State.extendRequest_eq (s : State) (req : Request) : s.extendRequest req = effectiveRequest s req := by
  have hzero : (req.vaddress.setWidth 32).setWidth 64 = BitVec.ofNat 64 (req.vaddress.toNat % 2 ^ 32) := by
    refine BitVec.eq_of_toNat_eq ?_
    rw [BitVec.toNat_setWidth, BitVec.toNat_setWidth, BitVec.toNat_ofNat]
  by_cases h : s.el = .el0 ∧ s.el0Aarch32 = true
  · simp only [State.extendRequest, effectiveRequest, h, beq_self_eq_true, Bool.and_self, and_self, if_true, hzero]
  · have hguard : (s.el == .el0 && s.el0Aarch32) = false := by
      rw [Bool.eq_false_iff]
      simpa using h
    simp only [State.extendRequest, effectiveRequest, hguard, if_neg h, Bool.false_eq_true, if_false]

theorem step_takes_request (hp : s.phase = .idle) (hr : s.requests = req :: rest) :
    step s = { s with requests := rest }.fullTranslate (effectiveRequest s req) := by
  rw [step_of_idle hp, State.takeRequest, hr, ← State.extendRequest_eq]
  rfl

theorem State.fullTranslate_of_stage1On (h32 : s.elUsingAArch32 s.s1Regime = false) (hon : s.s1Enabled = true) :
    s.fullTranslate req = s.stage1On req := by
  simp only [State.fullTranslate, h32, hon, Bool.false_eq_true, if_false, if_true]

theorem State.fullTranslate_of_stage1Off (h32 : s.elUsingAArch32 s.s1Regime = false) (hoff : s.s1Enabled = false) :
    s.fullTranslate req = s.stage1Off req := by
  simp only [State.fullTranslate, h32, hoff, Bool.false_eq_true, if_false]

theorem State.stage1On_of_error {k : FaultKind}
    (h : s.openStage1 req.vaddress (s.unknown .firstStage).ipaddress = .error k) :
    s.stage1On req =
      .next (s.finishFault .stage1
        (faultRecord k (s.unknown .firstStage).ipaddress 0 req.acctype req.iswrite false false)) := by
  simp only [State.stage1On, h]

theorem State.stage1On_of_ok {w : Walk} (h : s.openStage1 req.vaddress (s.unknown .firstStage).ipaddress = .ok w) :
    s.stage1On req = s.enterStage1 req w := by
  simp only [State.stage1On, h]

end

/-- Settles O31: the walk opens or not, with the UNKNOWN `ipaddress` of stage 1. -/
theorem requestStartsStageOneWalk : Obligations.RequestStartsStageOneWalk := by
  intro s req rest hp hr h32 hon s' q
  have hstep : step s = s'.stage1On q := (step_takes_request hp hr).trans (State.fullTranslate_of_stage1On h32 hon)
  refine ⟨(s.unknown .firstStage).ipaddress, fun k hk => ?_, fun w hw => ?_⟩
  · rw [hstep, State.stage1On_of_error (s := s') hk]
    exact s'.finishFault_ends_with _ _
  · rw [hstep, State.stage1On_of_ok (s := s') hw]
    exact s'.enterStage1_readsNext q w

/-! ### The flat map (R146 to R154) -/

section
variable {s : State} {req : Request}

theorem State.s1OffInRange_iff (s : State) (va : Word) :
    s.s1OffInRange va = true ↔ va.toNat % 2 ^ (s.addrTop va + 1) < 2 ^ PaSize.bits s.cfg.pamax := by
  have hbits := (PaSize.bits_bounds s.cfg.pamax).2
  have htop := s.addrTop_ge va
  exact isZeroSlice_iff va (by omega)

theorem State.stage1Off_of_wide
    (h : 2 ^ PaSize.bits s.cfg.pamax ≤ req.vaddress.toNat % 2 ^ (s.addrTop req.vaddress + 1)) :
    s.stage1Off req =
      .next (s.finishFault .stage1
        (faultRecord .addressSize (s.unknown .s1Off).ipaddress 0 req.acctype req.iswrite false false)) := by
  have hrange := Bool.eq_false_iff.mpr (mt (s.s1OffInRange_iff req.vaddress).mp (Nat.not_lt.mpr h))
  simp only [State.stage1Off, hrange, Bool.not_false, if_true]

theorem State.stage1Off_of_fits
    (h : req.vaddress.toNat % 2 ^ (s.addrTop req.vaddress + 1) < 2 ^ PaSize.bits s.cfg.pamax) :
    s.stage1Off req = s.completeStage1 req (s.s1OffRecord req) (s.unknown .firstStage).ipaddress false := by
  have hrange := (s.s1OffInRange_iff req.vaddress).mpr h
  simp only [State.stage1Off, hrange, Bool.not_true, Bool.false_eq_true, if_false]
  rfl

theorem State.defaultCacheable_iff (s : State) :
    s.defaultCacheable = true ↔ s.twoStages = true ∧ s.regs.hcrEl2.dc = true := by
  simp only [State.defaultCacheable, Bool.and_eq_true]

/-- The attributes of the flat map (R148 to R150, R250). -/
def FlatMapAttrs (s : State) (acctype : AccType) (m : MemoryAttributes) : Prop :=
  let dc := s.twoStages = true ∧ s.regs.hcrEl2.dc = true
  (dc → m.memtype = .normal ∧ m.inner.attrs = .wb ∧ m.inner.hints = .rwa ∧ m.outer = m.inner ∧
    m.shareable = false ∧ m.outershareable = false) ∧
  (¬dc → acctype ≠ .ifetch → DeviceAttrs .nGnRnE m) ∧
  (¬dc → acctype = .ifetch → m.memtype = .normal ∧ m.outer = m.inner ∧ m.shareable = true ∧
    m.outershareable = true ∧
    (s.sctlr.i = true → m.inner.attrs = .wt ∧ m.inner.hints = .ra) ∧
    (s.sctlr.i = false → m.inner.attrs = .nc ∧ m.inner.hints = .no))

theorem State.s1OffRecord_attrs (s : State) (req : Request) :
    FlatMapAttrs s req.acctype (s.s1OffRecord req).addrdesc.memattrs := by
  refine ⟨fun hdc => ?_, fun hdc hi => ?_, fun hdc hi => ?_⟩
  · have hdc' := s.defaultCacheable_iff.mpr hdc
    simp only [State.s1OffRecord, State.s1OffSpec, hdc', if_true]
    exact ⟨rfl, rfl, rfl, rfl, rfl, rfl⟩
  · have hdc' := Bool.eq_false_iff.mpr (mt s.defaultCacheable_iff.mp hdc)
    simp only [State.s1OffRecord, State.s1OffSpec, hdc', Bool.false_eq_true, if_false, if_pos hi]
    exact memAttrDefaults_device _ _
  · have hdc' := Bool.eq_false_iff.mpr (mt s.defaultCacheable_iff.mp hdc)
    simp only [State.s1OffRecord, State.s1OffSpec, hdc', Bool.false_eq_true, if_false, if_neg (not_not_intro hi)]
    cases hc : s.sctlr.i with
    | false => exact ⟨rfl, rfl, rfl, rfl, (nomatch ·), fun _ => ⟨rfl, rfl⟩⟩
    | true => exact ⟨rfl, rfl, rfl, rfl, fun _ => ⟨rfl, rfl⟩, (nomatch ·)⟩

/-- The flat map gives Device memory to data without the default-cacheable override, and to nothing else. -/
theorem FlatMapAttrs.device {acctype : AccType} {m : MemoryAttributes} (h : FlatMapAttrs s acctype m)
    (hd : m.memtype = .device) : ¬(s.twoStages = true ∧ s.regs.hcrEl2.dc = true) ∧ acctype ≠ .ifetch := by
  obtain ⟨hcacheable, -, hfetch⟩ := h
  have hdc : ¬(s.twoStages = true ∧ s.regs.hcrEl2.dc = true) := fun hdc => nomatch hd.symm.trans (hcacheable hdc).1
  exact ⟨hdc, fun hi => nomatch hd.symm.trans (hfetch hdc hi).1⟩

/-- With data aligned or cacheable by default, the checks after the flat map pass. -/
theorem State.stage1Checks_of_flatMap (ip : PAddr)
    (ha : ¬(s.twoStages = true ∧ s.regs.hcrEl2.dc = true) ∧ req.acctype ≠ .ifetch → req.wasaligned = true) :
    (s.record (s.s1OffRecord req)).stage1Checks req (s.s1OffRecord req) ip false =
      (s.s1OffRecord req).addrdesc := by
  have hattrs := s.s1OffRecord_attrs req
  refine State.stage1Checks_of_passes _ ip rfl (fun hm => ?_) (fun h => nomatch h) (fun hfetch => ?_)
  · obtain ⟨hal, -, hd⟩ := hm
    exact nomatch hal.symm.trans (ha (hattrs.device hd))
  · exact (hattrs.device hfetch.2).2 hfetch.1

theorem State.s1OffRecord_paddress (s : State) (req : Request) :
    (s.s1OffRecord req).addrdesc.paddress =
      { physicaladdress := BitVec.ofNat 48 req.vaddress.toNat, ns := !s.isSecure } := by
  rw [BitVec.ofNat_toNat]
  rfl

end

/-- Settles O32: the size check of the flat map as a number. -/
theorem flatMapRejectsOversizeAddress : Obligations.FlatMapRejectsOversizeAddress := by
  intro s req rest hp hr h32 hoff q hwide
  let s' : State := { s with requests := rest }
  rw [step_takes_request hp hr, State.fullTranslate_of_stage1Off (s := s') h32 hoff,
    State.stage1Off_of_wide (s := s') hwide]
  refine (State.finishFault_ends_with _ _ _).mono ?_
  rintro _ rfl
  exact ⟨rfl, rfl, rfl, rfl, rfl, rfl⟩

/-- Settles O33: the checks pass, so the record of the flat map completes stage 1. -/
theorem flatMapReturnsTheAddress : Obligations.FlatMapReturnsTheAddress := by
  intro s req rest hp hr h32 hoff q hfits dc ha
  let s' : State := { s with requests := rest }
  have hstep : step s = s'.completeStage1 q (s'.s1OffRecord q) (s'.unknown .firstStage).ipaddress false :=
    ((step_takes_request hp hr).trans (State.fullTranslate_of_stage1Off (s := s') h32 hoff)).trans
      (State.stage1Off_of_fits (s := s') hfits)
  have hchecks := State.stage1Checks_of_flatMap (s := s') (req := q) (s'.unknown .firstStage).ipaddress ha
  have hsucceeds := State.completeStage1_of_ok (s := s') (req := q) hchecks rfl (s'.s1OffRecord_attrs q)
  rw [State.s1OffRecord_paddress] at hsucceeds
  rw [hstep]
  exact hsucceeds

/-- Settles O34: such data is in Device memory. -/
theorem flatMapMisalignedDataFaults : Obligations.FlatMapMisalignedDataFaults := by
  intro s req rest hp hr h32 hoff q hfits hdc hi ha
  let s' : State := { s with requests := rest }
  have hdevice : DeviceAttrs .nGnRnE (s'.s1OffRecord q).addrdesc.memattrs := (s'.s1OffRecord_attrs q).2.1 hdc hi
  rw [step_takes_request hp hr, State.fullTranslate_of_stage1Off (s := s') h32 hoff,
    State.stage1Off_of_fits (s := s') hfits]
  exact State.completeStage1_misaligned rfl ⟨ha, hi, hdevice.1⟩

/-! ### The setup of a stage 2 walk (R193 to R205) -/

/-- What lets a stage 2 walk go on: the range, the size, and a starting level of the table of R198. -/
theorem State.stage2Found_iff (s : State) (ipa : PAddr) (n : Nat) :
    let g := tg0Granule s.regs.vtcrEl2.tg0
    let size := s.stage2Size (s.unknown .walkS2) n
    let level := startLevelS2 g s.regs.vtcrEl2.sl0
    (inRange false (ipa.setWidth 64) 63 n && levelSupported g level s.cfg.pamax && size.2.2 &&
        startSizeOk g level size.2.1) = true ↔
      (25 ≤ n ∧ n ≤ 48 ∧ ipa.toNat < 2 ^ n ∧ size.2.2 = true) ∧
        (s2StartLevel g s.regs.vtcrEl2.sl0 size.2.1 (PaSize.bits s.cfg.pamax)).isSome = true := by
  intro g size level
  have hrange : inRange false (ipa.setWidth 64) 63 n = true ↔ 25 ≤ n ∧ n ≤ 48 ∧ ipa.toNat < 2 ^ n := by
    have hipa : (ipa.setWidth 64).toNat % 2 ^ (63 + 1) = ipa.toNat := by
      rw [BitVec.toNat_setWidth]
      have := ipa.isLt
      omega
    rw [inRange_iff _ _ (by decide), hipa]
    rfl
  simp only [Bool.and_eq_true, hrange]
  by_cases hn : 25 ≤ n ∧ n ≤ 48
  · obtain ⟨hlo, hhi, -⟩ := s.stage2Size_bounds (s.unknown .walkS2) hn.1 hn.2
    obtain ⟨hstart, -⟩ := startLevelS2_spec g s.regs.vtcrEl2.sl0 s.cfg.pamax hlo hhi
    rw [← hstart, Bool.and_eq_true]
    tauto
  · tauto

/-- Settles O28: the checks of the setup are those of the table of R198, and a level of that table is the one opened. -/
theorem stageTwoWalkSetup : Obligations.StageTwoWalkSetup := by
  intro s ipa v g n size found start out base
  have hfound := s.stage2Found_iff ipa n
  refine ⟨fun h => ?_, fun l hf hl => ?_⟩
  · refine openWalk_of_not_found (.inl (Bool.eq_false_iff.mpr fun hb => ?_))
    obtain ⟨hf, hsome⟩ := hfound.mp hb
    obtain h | h := h
    · exact h hf
    · exact absurd (Option.isNone_iff_eq_none.mpr h) (by rw [Option.isNone_eq_false_iff.mpr hsome]; decide)
  · have hb := hfound.mpr ⟨hf, Option.isSome_iff_exists.mpr ⟨l, hl⟩⟩
    obtain ⟨hmin, hmax, -⟩ := hf
    obtain ⟨hlo, hhi, hsize⟩ := s.stage2Size_bounds (s.unknown .walkS2) hmin hmax
    obtain ⟨hlevel, hbottom, hbottomPa⟩ := (startLevelS2_spec g v.sl0 s.cfg.pamax hlo hhi).2 l hl
    refine ⟨fun hwide => openWalk_of_base_too_wide hb rfl hlevel hwide, fun hfits => ⟨?_, ?_⟩⟩
    · obtain h | h := hsize
      · exact h ▸ hbottom
      · exact h ▸ hbottomPa
    · intro lower
      have hbase : BitVec.ofNat 48 (base / 2 ^ lower * 2 ^ lower) = tableBase s.regs.vttbrEl2 size.1 g l :=
        (tableBase_eq ..).symm
      rw [hbase]
      exact openWalk_of_base_fits hb rfl hlevel hfits

/-! ### What is refused with AArch32 in use (R131, R181, R260) -/

section
variable {s : State} {req : Request}

/-- With EL2 using AArch32 the assertion of a stage 2 walk fails. -/
theorem State.s2WalkAssert_of_aarch32 (ha : s.el2Aarch32 = true) : s.s2WalkAssert = false := by
  simp [State.s2WalkAssert, ha]

theorem State.secondStage_refused (h : s.twoStages = true) (he : s.s2Enabled = true) (ha : s.el2Aarch32 = true)
    (s1 : AddressDescriptor) (outer : Option Walk) : s.secondStage req s1 outer = .refused .stage2AArch32 := by
  simp [State.secondStage, h, he, State.s2WalkAssert_of_aarch32 ha]

theorem State.enterStage1_refused (h : s.twoStages = true) (he : s.s2Enabled = true) (ha : s.el2Aarch32 = true)
    (w : Walk) : s.enterStage1 req w = .refused .stage2AArch32 := by
  rw [State.enterStage1_of_twoStages h, State.secondStage_refused h he ha]

/-- Stage 1 completes and stage 2 is refused. -/
theorem State.completeStage1_refused (h : s.twoStages = true) (he : s.s2Enabled = true) (ha : s.el2Aarch32 = true)
    {r : TLBRecord} {ip : PAddr} {check : Bool} {ad : AddressDescriptor}
    (hchecks : (s.record r).stage1Checks req r ip check = ad) (hf : ad.isFault = false) :
    s.completeStage1 req r ip check = .refused .stage2AArch32 := by
  rw [State.completeStage1, hchecks, State.afterStage1_of_twoStages (s := s.record r) req h hf]
  exact State.secondStage_refused (s := s.record r) h he ha ad none

theorem State.afterStage2Walk_refused (ha : s.el2Aarch32 = true) (w : Walk) (target : Target) (r : TLBRecord) :
    s.afterStage2Walk req w target r = .refused .stage2AArch32 := by
  simp [State.afterStage2Walk, State.s2WalkAssert_of_aarch32 ha]

/-- Whether a stage 1 walk opens does not depend on the UNKNOWN `ipaddress` it carries. -/
theorem State.openStage1_of_ok {va : Word} {ip : PAddr} {w : Walk} (h : s.openStage1 va ip = .ok w) (ip' : PAddr) :
    ∃ w', s.openStage1 va ip' = .ok w' := by
  obtain ⟨hf, hd, l, hl, hb, -⟩ := openWalk_ok h
  exact ⟨_, openWalk_of_base_fits hf hd hl (Nat.not_le.mp (mt (baseTooWide_iff _ _).mpr (Bool.eq_false_iff.mp hb)))⟩

theorem State.elUsingAArch32_s1Regime_of_el10 (h : s.el = .el0 ∨ s.el = .el1) :
    s.elUsingAArch32 s.s1Regime = s.el1Aarch32 := by
  obtain h | h := h <;> simp only [State.s1Regime, h, State.elUsingAArch32]

/-- A MAIR row that fetches nothing from Device memory completes stage 1, and stage 2 is refused. -/
theorem exec_allocatedRow_refused {ip : PAddr} {r : TLBRecord} {sh : BitVec 2} {index : BitVec 3} {a : MairAllocated}
    (h : s.twoStages = true) (he : s.s2Enabled = true) (ha : s.el2Aarch32 = true)
    (hp : s.phase = .attr req ip r sh index) (hf : r.addrdesc.isFault = false)
    (hpass : s.s1Fails r.perms r.addrdesc.paddress.ns req.acctype req.iswrite = false)
    (hok : (∃ o n, a = .normal o n) ∨ (req.wasaligned = true ∧ req.acctype ≠ .ifetch)) :
    exec (allocatedRow a) s = .refused .stage2AArch32 := by
  have refused (m : MemoryAttributes) (hm : ¬misalignedDevice req m)
      (hfetch : ¬(req.acctype = .ifetch ∧ m.memtype = .device)) :
      s.completeStage1 req (r.withAttrs m) ip true = .refused .stage2AArch32 :=
    State.completeStage1_refused h he ha
      (State.stage1Checks_of_passes (s.record (r.withAttrs m)) (r := r.withAttrs m) (check := true) ip hf hm
        (fun _ => hpass) hfetch)
      (checkedDescriptor_isFault _ true hf)
  cases a with
  | normal o n =>
    obtain ⟨m, hm, hexec⟩ := exec_normalRow_completes hp (nibble_ne_zero o) (nibble_ne_zero n)
    exact hexec.trans
      (refused m (not_misalignedDevice_of_normal hm.1) fun hfetch => nomatch hfetch.2.symm.trans hm.1)
  | device k =>
    obtain ⟨m, -, hexec⟩ := exec_deviceRow_completes (k := k) hp rfl
    obtain ⟨o, n, hok⟩ | ⟨hal, hi⟩ := hok
    · cases hok
    · exact hexec.trans (refused m (not_misalignedDevice_of_aligned hal) fun hfetch => hi hfetch.1)

theorem exec_leafS2 {i : Instr} {f : LeafS2} (hi : i = .descBlockS2 f ∨ i = .descPageS2 f) :
    exec i s = s.leafS2 i f := by
  obtain rfl | rfl := hi <;> rfl

theorem State.leafS2_of_passes {w : Walk} {target : Target} {d : AddressDescriptor} {i : Instr} {f : LeafS2}
    (hp : s.phase = .walking req w target d) (hf : fitsContext (walkContext w target) i = true)
    (h : LeafPasses s w f.contiguous f.addr f.af) :
    s.leafS2 i f = s.afterStage2Walk req w target (s.stage2Record req w f) := by
  simp only [State.leafS2, State.onDescriptor_of_fits hp hf, State.leafFault_of_passes h]

end

/-- Settles O30: the regime's level for stage 1; for stage 2 the assertion fails wherever it is made. -/
theorem aArch32RegimeIsRefused : Obligations.AArch32RegimeIsRefused := by
  refine ⟨fun s req rest hp hr h => ?_, fun s htwo he ha => ⟨fun req rest hp hr h32 => ?_, fun req w d hp hl => ?_,
    fun req ip r sh index i hp hf hm hw hpass hok => ?_, fun req w target d f i hp _ hi hfits hleaf => ?_⟩⟩
  · have h32 : s.elUsingAArch32 s.s1Regime = true := by
      obtain ⟨hel, h⟩ | ⟨hel, h⟩ | ⟨hel, h⟩ := h
      · rw [State.elUsingAArch32_s1Regime_of_el10 hel, h]
      · simp only [State.s1Regime, hel, State.elUsingAArch32, h]
      · simp only [State.s1Regime, hel, State.elUsingAArch32, h]
    rw [step_takes_request hp hr]
    exact if_pos h32
  · intro q
    let s' : State := { s with requests := rest }
    have h32' : s'.elUsingAArch32 s'.s1Regime = false :=
      (State.elUsingAArch32_s1Regime_of_el10 (s.twoStages_iff.mp htwo).2.2).trans h32
    refine ⟨fun hon hopen => ?_, fun hoff hrange hok => ?_⟩
    · obtain ⟨ip, w, hw⟩ := hopen
      obtain ⟨w', hw'⟩ := State.openStage1_of_ok (s := s') hw (s'.unknown .firstStage).ipaddress
      rw [step_takes_request hp hr, State.fullTranslate_of_stage1On (s := s') h32' hon,
        State.stage1On_of_ok (s := s') hw']
      exact State.enterStage1_refused (s := s') htwo he ha w'
    · have haligned : ¬(s'.twoStages = true ∧ s'.regs.hcrEl2.dc = true) ∧ q.acctype ≠ .ifetch →
          q.wasaligned = true := by
        rintro ⟨hdc, hi⟩
        obtain h | h | h := hok
        · exact absurd ⟨htwo, h⟩ hdc
        · exact absurd h hi
        · exact h
      rw [step_takes_request hp hr, State.fullTranslate_of_stage1Off (s := s') h32' hoff,
        State.stage1Off_of_fits (s := s') hrange]
      exact State.completeStage1_refused (s := s') htwo he ha (State.stage1Checks_of_flatMap (s := s') _ haligned) rfl
  · refine ⟨fun t hs ht => ?_, fun t hs ht => ?_⟩
    · rw [exec_descTableS1El10, State.tableDescriptor_of_address_fits hp (fitsContext_descTableS1El10 t hl hs) ht]
      exact State.enterStage1_refused htwo he ha _
    · rw [exec_descTableS1El2El3, State.tableDescriptor_of_address_fits hp (fitsContext_descTableS1El2El3 t hl hs) ht]
      exact State.enterStage1_refused htwo he ha _
  · obtain ⟨a, hexec, hnormal, -⟩ := exec_mair_allocated hm hw s
    rw [hexec]
    exact exec_allocatedRow_refused htwo he ha hp hf hpass (hok.imp_left fun ⟨o, n, h⟩ => hnormal o n h)
  · rw [exec_leafS2 hi, State.leafS2_of_passes hp hfits hleaf]
    exact State.afterStage2Walk_refused ha ..

end Sys2Proof.Machine
end

section
/-! PROOFS. The combination of two stages (R275), and what follows a stage 2 walk (R166 to R170): each check once, then
the end of the call or the suspended stage 1 walk. -/

namespace Sys2Proof.Machine

/-! ### The combination (R275) -/

section
variable {a b : MemAttrHints}

theorem combineHints_nc_iff : (combineHints a b).attrs = .nc ↔ a.attrs = .nc ∨ b.attrs = .nc := by
  cases ha : a.attrs <;> cases hb : b.attrs <;> simp [combineHints, ha, hb]

theorem combineHints_wb_iff : (combineHints a b).attrs = .wb ↔ a.attrs = .wb ∧ b.attrs = .wb := by
  cases ha : a.attrs <;> cases hb : b.attrs <;> simp [combineHints, ha, hb]

end

/-- The combined Device type is one of the two, and the more restrictive. -/
theorem combineDevice_spec : ∀ a b : DeviceType,
    (combineDevice a b = a ∨ combineDevice a b = b) ∧ deviceRank (combineDevice a b) ≤ deviceRank a ∧
      deviceRank (combineDevice a b) ≤ deviceRank b := by
  intro a b
  cases a <;> cases b <;> decide

section
variable {a b : MemoryAttributes}

theorem combineSpec_of_device_device (ha : a.memtype = .device) (hb : b.memtype = .device) :
    combineSpec a b = .device (combineDevice a.device b.device) := by
  simp only [combineSpec, ha, hb]

theorem combineSpec_of_device_normal (ha : a.memtype = .device) (hb : b.memtype = .normal) :
    combineSpec a b = .device a.device := by
  simp only [combineSpec, ha, hb]

theorem combineSpec_of_normal_device (ha : a.memtype = .normal) (hb : b.memtype = .device) :
    combineSpec a b = .device b.device := by
  simp only [combineSpec, ha, hb]

theorem combineSpec_of_normal (ha : a.memtype = .normal) (hb : b.memtype = .normal) :
    combineSpec a b =
      .normal (combineHints a.inner b.inner) (combineHints a.outer b.outer) (a.shareable || b.shareable)
        (a.outershareable || b.outershareable) := by
  simp only [combineSpec, ha, hb]

/-- The combination is Device memory exactly when either stage gives Device memory. -/
theorem combined_device_iff (u : Unknown) :
    (memAttrDefaults u (combineSpec a b)).memtype = .device ↔ a.memtype = .device ∨ b.memtype = .device := by
  cases ha : a.memtype with
  | device =>
    cases hb : b.memtype with
    | device => simp [combineSpec_of_device_device ha hb, (memAttrDefaults_device u _).1]
    | normal => simp [combineSpec_of_device_normal ha hb, (memAttrDefaults_device u _).1]
  | normal =>
    cases hb : b.memtype with
    | device => simp [combineSpec_of_normal_device ha hb, (memAttrDefaults_device u _).1]
    | normal => simp [combineSpec_of_normal ha hb]

theorem combined_device_shareable {u : Unknown} (h : (memAttrDefaults u (combineSpec a b)).memtype = .device) :
    (memAttrDefaults u (combineSpec a b)).shareable = true ∧
      (memAttrDefaults u (combineSpec a b)).outershareable = true := by
  cases hs : combineSpec a b with
  | device k => exact ⟨rfl, rfl⟩
  | normal => rw [hs] at h; cases h

theorem MemoryAttributes.not_device_iff {m : MemoryAttributes} : m.memtype ≠ .device ↔ m.memtype = .normal := by
  cases m.memtype <;> simp

theorem combined_normal_iff (u : Unknown) :
    (memAttrDefaults u (combineSpec a b)).memtype = .normal ↔ a.memtype = .normal ∧ b.memtype = .normal := by
  simp only [← MemoryAttributes.not_device_iff, ne_eq, combined_device_iff u, not_or]

/-- Both stages give Normal memory: the cacheabilities and the shareability. -/
theorem combined_of_normal (u : Unknown) (ha : a.memtype = .normal) (hb : b.memtype = .normal) :
    let m := memAttrDefaults u (combineSpec a b)
    let nc := a.inner.attrs = .nc ∨ b.inner.attrs = .nc
    let ncOuter := a.outer.attrs = .nc ∨ b.outer.attrs = .nc
    m.inner = combineHints a.inner b.inner ∧ m.outer = combineHints a.outer b.outer ∧
      (m.shareable = true ↔ a.shareable = true ∨ b.shareable = true ∨ (nc ∧ ncOuter)) ∧
      (m.outershareable = true ↔ a.outershareable = true ∨ b.outershareable = true ∨ (nc ∧ ncOuter)) := by
  rw [combineSpec_of_normal ha hb]
  refine ⟨rfl, rfl, ?_, ?_⟩
  · simp only [memAttrDefaults, Bool.or_eq_true, Bool.and_eq_true, beq_iff_eq, combineHints_nc_iff]
    tauto
  · simp only [memAttrDefaults, Bool.or_eq_true, Bool.and_eq_true, beq_iff_eq, combineHints_nc_iff]
    tauto

end

/-- Settles O49: a fault is the result; without one the memory types of the two stages decide. -/
theorem combinedAttributesAreTheStricter : Obligations.CombinedAttributesAreTheStricter := by
  refine ⟨rfl, fun u s1 s2 => ⟨fun h1 => if_pos h1, combineS1S2Desc_fault u, fun h1 h2 => ?_⟩⟩
  rw [combineS1S2Desc_ok u h1 h2]
  intro c a b m
  refine ⟨rfl, rfl, combined_device_iff u, combined_device_shareable, fun ha hb => ?_, fun ha hb => ?_,
    fun ha hb => ?_, fun hm => ?_⟩
  · have hm : m = memAttrDefaults u (.device a.device) :=
      congrArg (memAttrDefaults u) (combineSpec_of_device_normal ha hb)
    rw [hm]
    rfl
  · have hm : m = memAttrDefaults u (.device b.device) :=
      congrArg (memAttrDefaults u) (combineSpec_of_normal_device ha hb)
    rw [hm]
    rfl
  · have hm : m = memAttrDefaults u (.device (combineDevice a.device b.device)) :=
      congrArg (memAttrDefaults u) (combineSpec_of_device_device ha hb)
    rw [hm]
    exact combineDevice_spec a.device b.device
  · obtain ⟨ha, hb⟩ := (combined_normal_iff u).mp hm
    obtain ⟨hinner, houter, hshareable, houtershareable⟩ := combined_of_normal u ha hb
    simp only [m, c, a, b, hinner, houter]
    exact ⟨combineHints_nc_iff, combineHints_wb_iff, combineHints_nc_iff, combineHints_wb_iff, rfl, rfl, rfl, rfl,
      hshareable, houtershareable⟩

/-! ### The four checks after a stage 2 walk (R166 to R169) -/

section
variable (s : State) (req : Request) (r : TLBRecord) (ip : PAddr) (target : Target) (ad : AddressDescriptor)

/-- Alignment (R166). -/
def State.stage2Align : AddressDescriptor :=
  if !(req.wasaligned || target.s2fs1walk) && req.acctype != .ifetch && !ad.isFault &&
      ad.memattrs.memtype == .device then
    { ad with fault := alignmentFault (s.unknown .alignS2) req.acctype req.iswrite true }
  else ad

/-- Permission (R167). -/
def State.stage2Permission : AddressDescriptor :=
  if !ad.isFault then
    { ad with
      fault := checkS2Permission (s.unknown .checkS2Permission) r.perms ip r.level req.acctype req.iswrite
        target.s2fs1walk }
  else ad

/-- A fetch from Device memory (R168). -/
def State.stage2Fetch : AddressDescriptor :=
  if req.acctype == .ifetch && !ad.isFault && ad.memattrs.memtype == .device then
    s.instructionDevice (s.unknown .instrDeviceS2) ad ip r.level req.acctype req.iswrite true target.s2fs1walk
  else ad

/-- The protected table walk (R169). -/
def State.stage2Protect : AddressDescriptor :=
  if target.s2fs1walk && !ad.isFault && s.regs.hcrEl2.ptw && ad.memattrs.memtype == .device then
    { ad with fault := faultRecord .permission ip r.level req.acctype req.iswrite true true }
  else ad

theorem State.stage2Checks_eq :
    s.stage2Checks req r ip target =
      s.stage2Protect req r ip target
        (s.stage2Fetch req r ip target
          (s.stage2Permission req r ip target (s.stage2Align req target r.addrdesc))) := rfl

end

section
variable {s : State} {req : Request} {r : TLBRecord} {ip : PAddr} {target : Target} {ad : AddressDescriptor}

/-- Unaligned data in memory that stage 2 makes Device; a descriptor is always aligned. -/
def stage2Misaligned (req : Request) (target : Target) (m : MemoryAttributes) : Prop :=
  req.wasaligned = false ∧ target.s2fs1walk = false ∧ req.acctype ≠ .ifetch ∧ m.memtype = .device

theorem State.stage2Align_of_misaligned (hf : ad.isFault = false) (h : stage2Misaligned req target ad.memattrs) :
    s.stage2Align req target ad =
      { ad with fault := alignmentFault (s.unknown .alignS2) req.acctype req.iswrite true } := by
  obtain ⟨ha, hwalk, hi, hd⟩ := h
  exact if_pos (by simp [ha, hwalk, hi, hd, hf])

theorem State.stage2Align_of_not (h : ¬stage2Misaligned req target ad.memattrs) :
    s.stage2Align req target ad = ad := by
  refine if_neg fun hguard => h ?_
  simp only [Bool.and_eq_true, Bool.not_eq_true', Bool.or_eq_false_iff, bne_iff_ne, beq_iff_eq] at hguard
  obtain ⟨⟨⟨⟨ha, hwalk⟩, hi⟩, -⟩, hd⟩ := hguard
  exact ⟨ha, hwalk, hi, hd⟩

/-- A fault passes the last three checks. -/
theorem State.stage2Permission_of_fault (hf : ad.isFault = true) : s.stage2Permission req r ip target ad = ad :=
  if_neg (by simp [hf])

theorem State.stage2Fetch_of_fault (hf : ad.isFault = true) : s.stage2Fetch req r ip target ad = ad :=
  if_neg (by simp [hf])

theorem State.stage2Protect_of_fault (hf : ad.isFault = true) : s.stage2Protect req r ip target ad = ad :=
  if_neg (by simp [hf])

theorem State.stage2Permission_of_forbidden (hf : ad.isFault = false)
    (h : s2Forbids r.perms req.acctype req.iswrite target.s2fs1walk = true) :
    s.stage2Permission req r ip target ad =
      { ad with
        fault := faultRecord .permission ip r.level req.acctype
          (if req.acctype = .ifetch ∧ target.s2fs1walk = false then (s.unknown .checkS2Permission).faultWrite
            else req.iswrite && !target.s2fs1walk) true target.s2fs1walk } := by
  rw [State.stage2Permission, checkS2Permission_eq, if_pos h]
  exact if_pos (by simp [hf])

theorem State.stage2Permission_of_permitted (hf : ad.isFault = false)
    (h : s2Forbids r.perms req.acctype req.iswrite target.s2fs1walk = false) :
    s.stage2Permission req r ip target ad = checkedDescriptor (s.unknown .checkS2Permission) ad true := by
  rw [State.stage2Permission, checkS2Permission_eq, if_neg (Bool.eq_false_iff.mp h)]
  exact if_pos (by simp [hf])

theorem State.stage2Fetch_of_device (hf : ad.isFault = false) (hi : req.acctype = .ifetch)
    (hd : ad.memattrs.memtype = .device) :
    s.stage2Fetch req r ip target ad =
      s.instructionDevice (s.unknown .instrDeviceS2) ad ip r.level req.acctype req.iswrite true target.s2fs1walk :=
  if_pos (by simp [hf, hi, hd])

theorem State.stage2Fetch_of_not (h : ¬(req.acctype = .ifetch ∧ ad.memattrs.memtype = .device)) :
    s.stage2Fetch req r ip target ad = ad := by
  refine if_neg fun hguard => h ?_
  simp only [Bool.and_eq_true, beq_iff_eq] at hguard
  exact ⟨hguard.1.1, hguard.2⟩

theorem State.stage2Protect_of_protected (hf : ad.isFault = false) (hwalk : target.s2fs1walk = true)
    (hp : s.regs.hcrEl2.ptw = true) (hd : ad.memattrs.memtype = .device) :
    s.stage2Protect req r ip target ad =
      { ad with fault := faultRecord .permission ip r.level req.acctype req.iswrite true true } :=
  if_pos (by simp [hf, hwalk, hp, hd])

theorem State.stage2Protect_of_not
    (h : ¬(target.s2fs1walk = true ∧ s.regs.hcrEl2.ptw = true ∧ ad.memattrs.memtype = .device)) :
    s.stage2Protect req r ip target ad = ad := by
  refine if_neg fun hguard => h ?_
  simp only [Bool.and_eq_true, beq_iff_eq] at hguard
  obtain ⟨⟨⟨hwalk, -⟩, hp⟩, hd⟩ := hguard
  exact ⟨hwalk, hp, hd⟩

/-- The descriptor of a walk that the alignment and the permission check let pass. -/
def State.stage2Permitted (s : State) (r : TLBRecord) : AddressDescriptor :=
  checkedDescriptor (s.unknown .checkS2Permission) r.addrdesc true

/-! ### The checks together, one equation for each result -/

theorem State.stage2Checks_of_misaligned (hf : r.addrdesc.isFault = false)
    (hm : stage2Misaligned req target r.addrdesc.memattrs) :
    s.stage2Checks req r ip target =
      { r.addrdesc with fault := alignmentFault (s.unknown .alignS2) req.acctype req.iswrite true } := by
  rw [State.stage2Checks_eq, State.stage2Align_of_misaligned hf hm, State.stage2Permission_of_fault rfl,
    State.stage2Fetch_of_fault rfl, State.stage2Protect_of_fault rfl]

theorem State.stage2Checks_of_forbidden (hf : r.addrdesc.isFault = false)
    (hm : ¬stage2Misaligned req target r.addrdesc.memattrs)
    (h : s2Forbids r.perms req.acctype req.iswrite target.s2fs1walk = true) :
    s.stage2Checks req r ip target =
      { r.addrdesc with
        fault := faultRecord .permission ip r.level req.acctype
          (if req.acctype = .ifetch ∧ target.s2fs1walk = false then (s.unknown .checkS2Permission).faultWrite
            else req.iswrite && !target.s2fs1walk) true target.s2fs1walk } := by
  rw [State.stage2Checks_eq, State.stage2Align_of_not hm, State.stage2Permission_of_forbidden hf h,
    State.stage2Fetch_of_fault rfl, State.stage2Protect_of_fault rfl]

section
variable (hf : r.addrdesc.isFault = false) (hm : ¬stage2Misaligned req target r.addrdesc.memattrs)
  (h : s2Forbids r.perms req.acctype req.iswrite target.s2fs1walk = false)
include hf hm h

/-- The first two checks pass, and the last two remain. -/
theorem State.stage2Checks_of_permitted :
    s.stage2Checks req r ip target =
      s.stage2Protect req r ip target
        (s.stage2Fetch req r ip target (s.stage2Permitted r)) := by
  rw [State.stage2Checks_eq, State.stage2Align_of_not hm, State.stage2Permission_of_permitted hf h]
  rfl

/-- A permitted access that the last two checks do not concern. -/
theorem State.stage2Checks_of_passes (hfetch : ¬(req.acctype = .ifetch ∧ r.addrdesc.memattrs.memtype = .device))
    (hwalk : ¬(target.s2fs1walk = true ∧ s.regs.hcrEl2.ptw = true ∧ r.addrdesc.memattrs.memtype = .device)) :
    s.stage2Checks req r ip target = s.stage2Permitted r := by
  rw [State.stage2Checks_of_permitted hf hm h,
    State.stage2Fetch_of_not (ad := s.stage2Permitted r) hfetch,
    State.stage2Protect_of_not (ad := s.stage2Permitted r) hwalk]

/-- A descriptor that a data access reads from Device memory, with `HCR_EL2.PTW`. -/
theorem State.stage2Checks_of_protected (hi : req.acctype ≠ .ifetch) (hwalk : target.s2fs1walk = true)
    (hp : s.regs.hcrEl2.ptw = true) (hd : r.addrdesc.memattrs.memtype = .device) :
    s.stage2Checks req r ip target =
      { r.addrdesc with fault := faultRecord .permission ip r.level req.acctype req.iswrite true true } := by
  rw [State.stage2Checks_of_permitted hf hm h, State.stage2Fetch_of_not fun hfetch => hi hfetch.1,
    State.stage2Protect_of_protected (ad := s.stage2Permitted r) rfl hwalk hp hd]
  rfl

/-- A fetch that stage 2 makes Device, with the choice to fault. -/
theorem State.stage2Checks_of_fetchFault (hi : req.acctype = .ifetch) (hd : r.addrdesc.memattrs.memtype = .device)
    (hc : choose s.cfg.cuInstrDevice (s.unknown .instrDeviceS2).fetch = .fault) :
    s.stage2Checks req r ip target =
      { r.addrdesc with
        fault := faultRecord .permission ip r.level req.acctype req.iswrite true target.s2fs1walk } := by
  rw [State.stage2Checks_of_permitted hf hm h, State.stage2Fetch_of_device (ad := s.stage2Permitted r) rfl hi hd,
    State.instructionDevice_of_fault hc, State.stage2Protect_of_fault rfl]
  rfl

/-- A fetch that stage 2 makes Device, with the choice of Normal Non-cacheable: `PTW` sees the new type. -/
theorem State.stage2Checks_of_fetchNormal (hi : req.acctype = .ifetch) (hd : r.addrdesc.memattrs.memtype = .device)
    (hc : choose s.cfg.cuInstrDevice (s.unknown .instrDeviceS2).fetch = .none) :
    ∃ m, NonCacheable m ∧
      s.stage2Checks req r ip target =
        { s.stage2Permitted r with memattrs := m } := by
  obtain ⟨m, hm', hnone⟩ := State.instructionDevice_of_none (s := s) hc
    (ad := s.stage2Permitted r) (ip := ip) (level := r.level)
    (acctype := req.acctype) (iswrite := req.iswrite) (secondstage := true) (s2fs1walk := target.s2fs1walk)
  have hnormal : m.memtype = .normal := hm'.1
  refine ⟨m, hm', ?_⟩
  rw [State.stage2Checks_of_permitted hf hm h, State.stage2Fetch_of_device (ad := s.stage2Permitted r) rfl hi hd, hnone]
  exact State.stage2Protect_of_not fun ⟨_, _, hdevice⟩ => nomatch hdevice.symm.trans hnormal

end

end

/-! ### The record of a stage 2 block or page (R221, R227) -/

section
variable (s : State) (req : Request) (w : Walk) (f : LeafS2)

/-- The access permissions of a stage 2 block or page. -/
abbrev stage2Perms (f : LeafS2) : Permissions := { ap := f.s2ap ++ 1#1, xn := f.xn, pxn := false }

theorem stage2Perms_ap : ∀ s2ap : BitVec 2,
    (s2ap ++ 1#1).getLsbD 1 = s2ap.getLsbD 0 ∧ (s2ap ++ 1#1).getLsbD 2 = s2ap.getLsbD 1 := by
  decide

theorem s2Forbids_walk (acctype : AccType) (iswrite : Bool) :
    s2Forbids (stage2Perms f) acctype iswrite true = !f.s2ap.getLsbD 0 := by
  simp only [s2Forbids, Bool.true_eq_false, and_false, if_false, (stage2Perms_ap f.s2ap).1]

theorem s2Forbids_fetch (iswrite : Bool) : s2Forbids (stage2Perms f) .ifetch iswrite false = f.xn := by
  simp only [s2Forbids, and_self, if_true]

theorem s2Forbids_data {acctype : AccType} (hi : acctype ≠ .ifetch) (iswrite : Bool) :
    s2Forbids (stage2Perms f) acctype iswrite false = !f.s2ap.getLsbD (if iswrite then 1 else 0) := by
  simp only [s2Forbids, hi, false_and, if_false]
  cases iswrite with
  | false => simp only [Bool.false_eq_true, false_and, if_false, (stage2Perms_ap f.s2ap).1]
  | true => simp only [and_self, if_true, (stage2Perms_ap f.s2ap).2]

theorem State.stage2Record_physicaladdress_toNat (h : firstblocklevel w.granule ≤ w.level.val) :
    (s.stage2Record req w f).addrdesc.paddress.physicaladdress.toNat =
      outputNat f.addr w.inputaddr (addrselectbottom w.granule w.level) :=
  outputAddress_toNat _ _ ((addrselectbottom_le w.granule w.level h).trans (by decide))

end

/-- A block or page of stage 2 stands at a level where blocks are allowed. -/
theorem firstblocklevel_le_of_fits_leafS2 {w : Walk} {target : Target} {f : LeafS2} {i : Instr}
    (hi : i = .descBlockS2 f ∨ i = .descPageS2 f) (hf : fitsContext (walkContext w target) i = true) :
    firstblocklevel w.granule ≤ w.level.val := by
  obtain rfl | rfl := hi
  · simp only [fitsContext, Bool.and_eq_true] at hf
    obtain ⟨⟨-, hblock⟩, -⟩ := hf
    exact of_decide_eq_true hblock
  · simp only [fitsContext, walkContext, Bool.and_eq_true, beq_iff_eq] at hf
    obtain ⟨hlevel, -⟩ := hf
    rw [hlevel]
    cases w.granule <;> decide

/-! ### The end of a stage 2 walk (R170, R207) -/

section
variable {s : State} {req : Request} {w outer : Walk} {s1 d ad : AddressDescriptor} {r : TLBRecord} {f : LeafS2}
  {i : Instr}

theorem exec_leafS2_of_passes {target : Target} (hp : s.phase = .walking req w target d)
    (hi : i = .descBlockS2 f ∨ i = .descPageS2 f) (hf : fitsContext (walkContext w target) i = true)
    (h : LeafPasses s w f.contiguous f.addr f.af) :
    exec i s = s.afterStage2Walk req w target (s.stage2Record req w f) :=
  (exec_leafS2 hi).trans (State.leafS2_of_passes hp hf h)

/-- A fault of the checks ends the call, of the access. -/
theorem State.afterStage2Walk_access_fault (ha : s.s2WalkAssert = true) (h1 : s1.isFault = false)
    (hchecks : (s.record r).stage2Checks req r w.ipaddress (.access s1) = ad) (hf : ad.isFault = true) :
    EndsRecorded s (s.afterStage2Walk req w (.access s1) r) (· = ad.fault) := by
  simp only [State.afterStage2Walk, ha, Bool.not_true, Bool.false_eq_true, if_false, hchecks,
    combineS1S2Desc_fault _ h1 hf]
  exact ⟨r, ad, rfl, rfl⟩

/-- A fault of the checks ends the call, of a descriptor address. -/
theorem State.afterStage2Walk_table_fault (ha : s.s2WalkAssert = true) (h1 : s1.isFault = false)
    (hchecks : (s.record r).stage2Checks req r w.ipaddress (.table outer s1) = ad) (hf : ad.isFault = true) :
    EndsRecorded s (s.afterStage2Walk req w (.table outer s1) r) (· = ad.fault) := by
  simp only [State.afterStage2Walk, ha, Bool.not_true, Bool.false_eq_true, if_false, hchecks,
    combineS1S2Desc_fault _ h1 hf, hf, if_true]
  exact ⟨r, (s.record r).finishFault_ends_with _ _⟩

/-- Without a fault the call returns the combination. -/
theorem State.afterStage2Walk_access_ok (ha : s.s2WalkAssert = true) (h1 : s1.isFault = false)
    (hchecks : (s.record r).stage2Checks req r w.ipaddress (.access s1) = ad) (hf : ad.isFault = false) :
    ∃ c : AddressDescriptor,
      s.afterStage2Walk req w (.access s1) r =
        .next { s with lastWalk := some r, results := s.results ++ [c], phase := .idle, tick := s.tick + 1 } ∧
      c.isFault = false ∧ c.paddress = ad.paddress ∧
      c.memattrs = memAttrDefaults (s.unknown .combine) (combineSpec s1.memattrs ad.memattrs) := by
  simp only [State.afterStage2Walk, ha, Bool.not_true, Bool.false_eq_true, if_false, hchecks,
    combineS1S2Desc_ok _ h1 hf]
  exact ⟨_, rfl, rfl, rfl, rfl⟩

/-- Without a fault the suspended stage 1 walk reads its descriptor. -/
theorem State.afterStage2Walk_table_ok (ha : s.s2WalkAssert = true) (h1 : s1.isFault = false)
    (hb : firstblocklevel w.granule ≤ w.level.val)
    (hchecks : (s.record (s.stage2Record req w f)).stage2Checks req (s.stage2Record req w f) w.ipaddress
      (.table outer s1) = ad) (hf : ad.isFault = false) :
    ResumesStage1 s req w outer f (s.afterStage2Walk req w (.table outer s1) (s.stage2Record req w f)) := by
  have hpa : ad.paddress = (s.stage2Record req w f).addrdesc.paddress := by
    rw [← hchecks, State.stage2Checks_paddress]
  simp only [State.afterStage2Walk, ha, Bool.not_true, Bool.false_eq_true, if_false, hchecks,
    combineS1S2Desc_ok _ h1 hf, AddressDescriptor.isFault_mk, noFault_kind, bne_self_eq_false]
  refine ⟨s.stage2Record req w f, _, rfl, rfl, ?_, rfl, ?_, hpa.symm, rfl⟩
  · exact (congrArg FullAddress.ns hpa).trans rfl
  · exact (congrArg (fun p => p.physicaladdress.toNat) hpa).trans (s.stage2Record_physicaladdress_toNat req w f hb)

end

/-- What stage 2 allows the access itself (R261, R262). -/
theorem s2Forbids_access_eq_false {req : Request} {f : LeafS2} (hfetch : req.acctype = .ifetch → f.xn = false)
    (hdata : req.acctype ≠ .ifetch → f.s2ap.getLsbD (if req.iswrite then 1 else 0) = true) :
    s2Forbids (stage2Perms f) req.acctype req.iswrite false = false := by
  by_cases hi : req.acctype = .ifetch
  · rw [hi, s2Forbids_fetch, hfetch hi]
  · rw [s2Forbids_data f hi, hdata hi, Bool.not_true]

theorem s2Forbids_access_eq_true {req : Request} {f : LeafS2}
    (h : if req.acctype = .ifetch then f.xn = true else f.s2ap.getLsbD (if req.iswrite then 1 else 0) = false) :
    s2Forbids (stage2Perms f) req.acctype req.iswrite false = true := by
  by_cases hi : req.acctype = .ifetch
  · rw [if_pos hi] at h
    rw [hi, s2Forbids_fetch, h]
  · rw [if_neg hi] at h
    rw [s2Forbids_data f hi, h, Bool.not_false]

section
variable {req : Request} {target : Target} {m : MemoryAttributes}

theorem not_stage2Misaligned_of_normal (h : m.memtype = .normal) : ¬stage2Misaligned req target m :=
  fun ⟨_, _, _, hd⟩ => nomatch hd.symm.trans h

theorem not_stage2Misaligned_of_aligned (h : req.wasaligned = true) : ¬stage2Misaligned req target m :=
  fun ⟨ha, _⟩ => nomatch ha.symm.trans h

theorem not_stage2Misaligned_of_ifetch (h : req.acctype = .ifetch) : ¬stage2Misaligned req target m :=
  fun ⟨_, _, hi, _⟩ => hi h

theorem not_stage2Misaligned_of_walk (h : target.s2fs1walk = true) : ¬stage2Misaligned req target m :=
  fun ⟨_, hwalk, _⟩ => nomatch hwalk.symm.trans h

end

/-- Settles O44: the checks pass, so the call returns the combination. -/
theorem stageTwoLeafReturnsTheAddress : Obligations.StageTwoLeafReturnsTheAddress := by
  intro s req w s1 d f i hp hi hfits hleaf hassert h1 htype hxn hap
  have hm : ¬stage2Misaligned req (.access s1) (s.stage2Record req w f).addrdesc.memattrs :=
    htype.elim not_stage2Misaligned_of_normal fun h => not_stage2Misaligned_of_aligned h.1
  have hfetch : ¬(req.acctype = .ifetch ∧ (s.stage2Record req w f).addrdesc.memattrs.memtype = .device) := by
    rintro ⟨hi, hd⟩
    obtain h | h := htype
    · exact nomatch h.symm.trans hd
    · exact h.2 hi
  have hchecks := State.stage2Checks_of_passes (s := s.record (s.stage2Record req w f)) (r := s.stage2Record req w f)
    (ip := w.ipaddress) (target := .access s1) rfl hm (s2Forbids_access_eq_false hxn hap) hfetch (fun h => nomatch h.1)
  obtain ⟨ad, hres, had, hpa, hattrs⟩ := State.afterStage2Walk_access_ok hassert h1 hchecks rfl
  have hpa' : ad.paddress = (s.stage2Record req w f).addrdesc.paddress := hpa
  refine ⟨s.stage2Record req w f, ad, (exec_leafS2_of_passes hp hi hfits hleaf).trans hres, had, ?_, ?_, hpa'.symm,
    rfl, rfl, rfl, rfl, rfl, fun h => ?_, fun h hs1 => ?_⟩
  · rw [hpa']
    rfl
  · rw [hpa']
    exact s.stage2Record_physicaladdress_toNat req w f (firstblocklevel_le_of_fits_leafS2 hi hfits)
  · rw [hattrs, combined_device_iff]
    exact h.symm
  · rw [hattrs, combined_normal_iff]
    exact ⟨hs1, h⟩

/-- Settles O45: the checks pass, so the suspended walk goes on at the combination's address. -/
theorem stageTwoLeafResumesStageOne : Obligations.StageTwoLeafResumesStageOne := by
  intro s req w outer s1 d f i hp hi hfits hleaf hassert h1 hap htype
  have hpass : s2Forbids (stage2Perms f) req.acctype req.iswrite true = false := by
    rw [s2Forbids_walk, hap, Bool.not_true]
  have hnormal (h : s.s2LeafType req f = .normal) : (s.stage2Record req w f).addrdesc.memattrs.memtype ≠ .device :=
    MemoryAttributes.not_device_iff.mpr h
  have hchecks := State.stage2Checks_of_passes (s := s.record (s.stage2Record req w f)) (r := s.stage2Record req w f)
    (ip := w.ipaddress) (target := .table outer s1) rfl (not_stage2Misaligned_of_walk rfl) hpass
    (fun ⟨hfetch, hd⟩ => htype.elim (fun h => hnormal h hd) fun h => h.2 hfetch)
    (fun ⟨_, hptw, hd⟩ => htype.elim (fun h => hnormal h hd) fun h => nomatch hptw.symm.trans h.1)
  rw [exec_leafS2_of_passes hp hi hfits hleaf]
  exact State.afterStage2Walk_table_ok hassert h1 (firstblocklevel_le_of_fits_leafS2 hi hfits) hchecks rfl

/-- Settles O47: `stage2Checks` makes the three checks in this order, and the choice decides the last. -/
theorem stageTwoAccessFaults : Obligations.StageTwoAccessFaults := by
  intro s req w s1 d f i hp hi hfits hleaf hassert h1
  rw [exec_leafS2_of_passes hp hi hfits hleaf]
  refine ⟨fun hd ha hdata => ?_, fun hm hforbid => ?_, fun hd hfetch hxn => ?_⟩
  · have hchecks := State.stage2Checks_of_misaligned (s := s.record (s.stage2Record req w f))
      (r := s.stage2Record req w f) (ip := w.ipaddress) (target := .access s1) rfl ⟨ha, rfl, hdata, hd⟩
    refine (State.afterStage2Walk_access_fault hassert h1 hchecks rfl).mono ?_
    rintro _ rfl
    exact ⟨rfl, rfl, rfl, rfl⟩
  · have hm' : ¬stage2Misaligned req (.access s1) (s.stage2Record req w f).addrdesc.memattrs := by
      obtain h | h | h := hm
      · exact not_stage2Misaligned_of_normal h
      · exact not_stage2Misaligned_of_aligned h
      · exact not_stage2Misaligned_of_ifetch h
    have hchecks := State.stage2Checks_of_forbidden (s := s.record (s.stage2Record req w f))
      (r := s.stage2Record req w f) (ip := w.ipaddress) (target := .access s1) rfl hm'
      (s2Forbids_access_eq_true hforbid)
    refine (State.afterStage2Walk_access_fault hassert h1 hchecks rfl).mono ?_
    rintro _ rfl
    refine ⟨rfl, rfl, rfl, rfl, rfl, rfl, fun hdata => ?_⟩
    exact (if_neg fun h => hdata h.1).trans (Bool.and_true _)
  · intro faults fetches
    have hpass : s2Forbids (stage2Perms f) req.acctype req.iswrite false = false :=
      s2Forbids_access_eq_false (fun _ => hxn) fun h => absurd hfetch h
    have hfaults (hc : choose s.cfg.cuInstrDevice (s.unknown .instrDeviceS2).fetch = .fault) : faults := by
      have hchecks := State.stage2Checks_of_fetchFault (s := s.record (s.stage2Record req w f))
        (r := s.stage2Record req w f) (ip := w.ipaddress) (target := .access s1) rfl
        (not_stage2Misaligned_of_ifetch hfetch) hpass hfetch hd hc
      refine (State.afterStage2Walk_access_fault hassert h1 hchecks rfl).mono ?_
      rintro _ rfl
      simp only [hfetch]
      rfl
    have hfetches (hc : choose s.cfg.cuInstrDevice (s.unknown .instrDeviceS2).fetch = .none) : fetches := by
      obtain ⟨m, hnc, hchecks⟩ := State.stage2Checks_of_fetchNormal (s := s.record (s.stage2Record req w f))
        (r := s.stage2Record req w f) (ip := w.ipaddress) (target := .access s1) rfl
        (not_stage2Misaligned_of_ifetch hfetch) hpass hfetch hd hc
      obtain ⟨ad, hres, had, hpa, hattrs⟩ := State.afterStage2Walk_access_ok hassert h1 hchecks rfl
      have hpa' : ad.paddress = (s.stage2Record req w f).addrdesc.paddress := hpa
      have hattrs' : ad.memattrs = memAttrDefaults (s.unknown .combine) (combineSpec s1.memattrs m) := hattrs
      refine ⟨_, ad, hres, had, ?_, ?_, fun hs1 => ?_, fun hs1 => ?_⟩
      · rw [hpa']
        rfl
      · rw [hpa']
        exact s.stage2Record_physicaladdress_toNat req w f (firstblocklevel_le_of_fits_leafS2 hi hfits)
      · rw [hattrs', combined_device_iff]
        exact .inl hs1
      · obtain ⟨hnormal, hinner, -, houter, hshareable, houtershareable⟩ := hnc
        obtain ⟨hi', ho', hsh, hosh⟩ := combined_of_normal (s.unknown .combine) hs1 hnormal
        have hncOuter : m.outer.attrs = .nc := by rw [houter, hinner]
        rw [hattrs', hi', ho', combined_normal_iff, combineHints_nc_iff, combineHints_nc_iff, hsh, hosh]
        exact ⟨⟨hs1, hnormal⟩, .inr hinner, .inr hncOuter, .inr (.inl hshareable), .inr (.inl houtershareable)⟩
    refine ⟨fun hc => hfaults (by rw [hc, choose_fixed]), fun hc => hfetches (by rw [hc, choose_fixed]), ?_⟩
    cases hc : choose s.cfg.cuInstrDevice (s.unknown .instrDeviceS2).fetch with
    | fault => exact .inl (hfaults hc)
    | none => exact .inr (hfetches hc)

/-- Settles O48: a descriptor is read, so read permission decides; then come the fetch check and `PTW`. -/
theorem stageTwoWalkFaults : Obligations.StageTwoWalkFaults := by
  intro s req w outer s1 d f i hp hi hfits hleaf hassert h1
  rw [exec_leafS2_of_passes hp hi hfits hleaf]
  refine ⟨fun hap => ?_, fun hap hd => ?_⟩
  · have hforbid : s2Forbids (stage2Perms f) req.acctype req.iswrite true = true := by
      rw [s2Forbids_walk, hap, Bool.not_false]
    have hchecks := State.stage2Checks_of_forbidden (s := s.record (s.stage2Record req w f))
      (r := s.stage2Record req w f) (ip := w.ipaddress) (target := .table outer s1) rfl
      (not_stage2Misaligned_of_walk rfl) hforbid
    refine (State.afterStage2Walk_table_fault hassert h1 hchecks rfl).mono ?_
    rintro _ rfl
    simp only [Target.s2fs1walk, Bool.true_eq_false, and_false, if_false, Bool.not_true, Bool.and_false]
    rfl
  · intro faults resumes
    have hpass : s2Forbids (stage2Perms f) req.acctype req.iswrite true = false := by
      rw [s2Forbids_walk, hap, Bool.not_true]
    have hm : ¬stage2Misaligned req (.table outer s1) (s.stage2Record req w f).addrdesc.memattrs :=
      not_stage2Misaligned_of_walk rfl
    refine ⟨fun hdata hptw => ?_, fun hfetch => ?_⟩
    · have hchecks := State.stage2Checks_of_protected (s := s.record (s.stage2Record req w f))
        (r := s.stage2Record req w f) (ip := w.ipaddress) (target := .table outer s1) rfl hm hpass hdata rfl hptw hd
      refine (State.afterStage2Walk_table_fault hassert h1 hchecks rfl).mono ?_
      rintro _ rfl
      rfl
    · have hfaults (hc : choose s.cfg.cuInstrDevice (s.unknown .instrDeviceS2).fetch = .fault) : faults := by
        have hchecks := State.stage2Checks_of_fetchFault (s := s.record (s.stage2Record req w f))
          (r := s.stage2Record req w f) (ip := w.ipaddress) (target := .table outer s1) rfl hm hpass hfetch hd hc
        refine (State.afterStage2Walk_table_fault hassert h1 hchecks rfl).mono ?_
        rintro _ rfl
        rfl
      have hresumes (hc : choose s.cfg.cuInstrDevice (s.unknown .instrDeviceS2).fetch = .none) : resumes := by
        obtain ⟨m, -, hchecks⟩ := State.stage2Checks_of_fetchNormal (s := s.record (s.stage2Record req w f))
          (r := s.stage2Record req w f) (ip := w.ipaddress) (target := .table outer s1) rfl hm hpass hfetch hd hc
        exact State.afterStage2Walk_table_ok hassert h1 (firstblocklevel_le_of_fits_leafS2 hi hfits) hchecks rfl
      refine ⟨fun hc => hfaults (by rw [hc, choose_fixed]), fun hc => hresumes (by rw [hc, choose_fixed]), ?_⟩
      cases hc : choose s.cfg.cuInstrDevice (s.unknown .instrDeviceS2).fetch with
      | fault => exact .inl (hfaults hc)
      | none => exact .inr (hresumes hc)

end Sys2Proof.Machine
end

section
/-! PROOFS. The hierarchical attributes over a table descriptor (R214). -/

namespace Sys2Proof.Machine

/-! ### Which walk goes on -/

section
variable {s t : State} {req req' : Request} {w w' : Walk} {d' : AddressDescriptor}

/-- The stage 1 walk that a state is in, reading its descriptor or with the descriptor's address at stage 2. -/
def inStage1Walk (t : State) (req : Request) (w : Walk) (d : AddressDescriptor) : Prop :=
  t.phase = .walking req w .stage1 d ∨ ∃ w2 s1, t.phase = .walking req w2 (.table w s1) d

theorem not_inStage1Walk_of_idle (h : t.phase = .idle) : ¬inStage1Walk t req w d' := by
  rintro (h' | ⟨w2, s1, h'⟩) <;> cases h.symm.trans h'

/-- Where the next descriptor of a stage 1 walk is read, it is that walk that goes on. -/
theorem State.enterStage1_inStage1Walk (h : s.enterStage1 req w = .next t) (ht : inStage1Walk t req' w' d') :
    req' = req ∧ w' = w := by
  have reads (htw : t = s.atDescriptor req w .stage1 (descaddr (s.unknown .descAddrS1) w)) : req' = req ∧ w' = w := by
    subst htw
    obtain ht | ⟨w2, s1, ht⟩ := ht <;> cases ht
    exact ⟨rfl, rfl⟩
  obtain ⟨-, htw⟩ | ⟨-, -, -, h2⟩ := State.enterStage1_next h
  · exact reads htw
  · obtain ⟨-, ⟨-, hn, -⟩ | ⟨w0, -, hw, htw⟩ | ⟨target, k, -, -, -, -, htw⟩ | ⟨target, w2, -, -, htarget, -, htw⟩⟩ :=
      State.secondStage_next h2
    · cases hn
    · cases hw
      exact reads htw
    · exact absurd ht (not_inStage1Walk_of_idle (by rw [htw, State.finishFault_phase]))
    · subst htw htarget
      obtain ht | ⟨w2, s1, ht⟩ := ht <;> cases ht
      exact ⟨rfl, rfl⟩

end

/-! ### The rows of a stage 2 walk -/

/-- The outcomes of a descriptor in a stage 2 walk: its table row reads none of the attribute bits (R214). -/
theorem exec_stage2_outcome {s : State} {req : Request} {w : Walk} {target : Target} {d : AddressDescriptor} {i : Instr}
    (hp : s.phase = .walking req w target d) (hf : fitsContext (walkContext w target) i = true)
    (hs : target.secondstage = true) :
    (∃ k, exec i s = .next (s.finishFault target (walkFault k req w target))) ∨
      (∃ a, w.level ≠ 3 ∧ exec i s = s.enterLevel req (descend w a false false false false false) target) ∨
      ∃ f, exec i s = s.afterStage2Walk req w target (s.stage2Record req w f) := by
  have hstage := walkContext_stage_of_secondstage w hs
  have leaf (f : LeafS2) (hi : i = .descBlockS2 f ∨ i = .descPageS2 f) :
      (∃ k, exec i s = .next (s.finishFault target (walkFault k req w target))) ∨
        ∃ f, exec i s = s.afterStage2Walk req w target (s.stage2Record req w f) := by
    rw [exec_leafS2 hi, State.leafS2, State.onDescriptor_of_fits hp hf]
    cases s.leafFault w f.contiguous f.addr f.af with
    | some k => exact .inl ⟨k, rfl⟩
    | none => exact .inr ⟨f, rfl⟩
  have invalid : s.invalidDescriptor i = .next (s.finishFault target (walkFault .translation req w target)) := by
    rw [State.invalidDescriptor, State.onDescriptor_of_fits hp hf]
  cases i with
  | descInvalid | descReservedL3 | descBlockNotAllowed => exact .inl ⟨_, invalid⟩
  | descTableS1El10 | descTableS1El2El3 | descBlockS1 | descPageS1 => simp [fitsContext, hstage] at hf
  | descTableS2 a =>
    have hlevel : w.level ≠ 3 := by
      simp only [fitsContext, Bool.and_eq_true, bne_iff_ne] at hf
      exact hf.1
    rw [exec_descTableS2, State.tableDescriptor, State.onDescriptor_of_fits hp hf]
    split_ifs
    · exact .inl ⟨_, rfl⟩
    · exact .inr (.inl ⟨a, hlevel, rfl⟩)
  | descBlockS2 f => exact (leaf f (.inl rfl)).imp_right .inr
  | descPageS2 f => exact (leaf f (.inr rfl)).imp_right .inr
  | mairDeviceNGnRnE | mairDeviceNGnRE | mairDeviceNGRE | mairDeviceGRE | mairReservedDevice01
  | mairReservedDevice10 | mairReservedDevice11 | mairReservedNormal | mairNormal => cases hf

/-! ### The attributes (R214) -/

/-- The next level's attributes are at least as restrictive. -/
theorem descend_stricter {w : Walk} (hl : w.level ≠ 3) (a : BitVec 36) (ns ro pv xn pxn : Bool) :
    let w' := descend w a ns ro pv xn pxn
    (w.nsTable = true → w'.nsTable = true) ∧ (w.xnTable = true → w'.xnTable = true) ∧
      (w.pxnTable = true → w'.pxnTable = true) ∧ w.apTable &&& w'.apTable = w.apTable ∧
      w'.level.val = w.level.val + 1 := by
  refine ⟨fun h => ?_, fun h => ?_, fun h => ?_, ?_, nextLevel_val w.level hl⟩
  · rw [descend_nsTable, h, Bool.true_or]
  · rw [descend_xnTable, h, Bool.true_or]
  · rw [descend_pxnTable, h, Bool.true_or]
  · have absorb : ∀ x y : BitVec 2, x &&& (x ||| y) = x := by decide
    exact absorb _ _

/-- A table that sets none of the attributes leaves them as they are. -/
theorem descend_unchanged {w : Walk} (hl : w.level ≠ 3) (a : BitVec 36) :
    let w' := descend w a false false false false false
    w'.nsTable = w.nsTable ∧ w'.apTable = w.apTable ∧ w'.xnTable = w.xnTable ∧ w'.pxnTable = w.pxnTable ∧
      w'.level.val = w.level.val + 1 :=
  ⟨Bool.or_false _, BitVec.or_zero, Bool.or_false _, Bool.or_false _, nextLevel_val w.level hl⟩

/-- Settles O41: only a table descriptor keeps a stage 1 walk going, and only a table or a leaf a stage 2 walk. -/
theorem tableAttributesOnlyBecomeStricter : Obligations.TableAttributesOnlyBecomeStricter := by
  refine ⟨fun s t req req' w w' d d' hp hstep ht => ?_, fun s t req req' w w' target target' d d' hp hs hstep ht => ?_⟩
  · have houtcome := step_walking_outcome hp
    rw [hstep] at houtcome
    generalize hres : (Host.Outcome.next t : Result) = res at houtcome
    cases houtcome with
    | fault k =>
      cases hres
      exact absurd ht (not_inStage1Walk_of_idle (State.finishFault_phase ..))
    | table a ns ro pv xn pxn hl =>
      obtain ⟨rfl, rfl⟩ := State.enterStage1_inStage1Walk hres.symm ht
      obtain ⟨hns, hxn, hpxn, hap, hlevel⟩ := descend_stricter hl a ns ro pv xn pxn
      exact ⟨hns, hxn, hpxn, hap, rfl, hlevel⟩
    | leafS1 f _ =>
      cases hres
      obtain ht | ⟨w2, s1, ht⟩ := ht <;> cases ht
    | leafS2 f hsecond _ => cases hsecond
  · obtain ⟨i, hf, -, hexec⟩ := step_of_walking hp
    rw [hexec] at hstep
    obtain ⟨k, h⟩ | ⟨a, hl, h⟩ | ⟨f, h⟩ := exec_stage2_outcome hp hf hs
    · cases hstep.symm.trans h
      rw [State.finishFault_phase] at ht
      cases ht
    · obtain ⟨hstage1, -⟩ | ⟨-, rfl⟩ := State.enterLevel_next (h.symm.trans hstep)
      · subst hstage1
        cases hs
      · cases ht
        exact ⟨rfl, .inl ⟨rfl, descend_unchanged hl a⟩⟩
    · obtain ⟨-, ⟨s1, -, rfl⟩ | ⟨outer, s1, c, rfl, -, ⟨-, rfl⟩ | ⟨-, rfl⟩⟩⟩ :=
        State.afterStage2Walk_next (h.symm.trans hstep)
      · cases ht
      · rw [State.finishFault_phase] at ht
        cases ht
      · cases ht
        exact ⟨rfl, .inr ⟨rfl, s1, rfl⟩⟩

end Sys2Proof.Machine
end
